-- ==== Sys2Proof/Word.lean ====
section
/-! DEFINITION. The bit-vector widths the spec names (00_scope.md R7; 30_encoding.md R60). -/

namespace Sys2Proof

/-- A byte, 8 bits (R7). -/
abbrev Byte := BitVec 8

/-- A nibble, 4 bits (R7). -/
abbrev Nibble := BitVec 4

/-- The 32-bit operand `arg` and the 32-bit outputs `result` and `bcd_out` (R60, R121). -/
abbrev Word := BitVec 32

/-- The 41-bit command word `CW` of the block's command input (R60). -/
abbrev CmdWord := BitVec 41

end Sys2Proof
end

