-- ==== Sys2Proof/Config.lean ====
section
/-! DEFINITION. The build parameters of an instance of the block and of its host (00_scope.md R5), and the free values
of the spec: constants with no body, of which nothing can be proved. -/

namespace Sys2Proof

/-- `ODD_NIBBLE_POLICY` (R5; 40_bcd_codec.md R93): what an odd digit count does to the high nibble of its last byte. -/
inductive OddNibblePolicy where
  /-- the high nibble keeps its previous value -/
  | literal
  /-- the high nibble is written 0 -/
  | prezero
  deriving DecidableEq, Repr

/-- The build parameters of one instance of the block (R5; 30_encoding.md R72, R73). "Each parameter is a constant for the
life of a model instance" (10_state.md R27). `FILL`, `MAX_DIGITS` and `MAX_DEC_BYTES`, which R5 fixes, are not fields. -/
structure Config where
  oddNibblePolicy : OddNibblePolicy
  /-- `PWR_ON_WAKE_BYTES` (30_encoding.md R71) -/
  pwrOnWakeBytes : Nat
  opcLockOn : Byte
  opcLockOff : Byte
  opcPttOn : Byte
  opcPttOff : Byte
  opcSplitOn : Byte
  opcSplitOff : Byte
  opcVfoSwap : Byte
  opcPwrOn : Byte
  opcPwrOff : Byte
  opcFreqSet : Byte
  opcReadFreqMode : Byte
  opcModeSet : Byte
  opcCtcssMode : Byte
  opcCtcssFreq : Byte
  opcRptShift : Byte
  opcRptOffset : Byte
  opcTxMeters : Byte
  opcTxState : Byte
  /-- `OPC_TX_STATE2`: `none` where the instance does not supply it (42_commands.md R159) -/
  opcTxState2 : Option Byte
  opcRxStatus : Byte
  opcEepromRead : Byte
  dirMinus : Byte
  dirPlus : Byte
  dirSimplex : Byte
  ctcssEncOnCode : Byte
  ctcssOffCode : Byte
  /-- `EEPROM_RESP_LEN`, "0..7 so that it fits the 3-bit `resp_len` output" (R5) -/
  eepromRespLen : BitVec 3
  deriving DecidableEq, Repr

/-- The 22 bytes 30_encoding.md R72 requires to be pairwise distinct: the 21 opcodes (20 where `OPC_TX_STATE2` is not
supplied) and the two CTCSS sub-codes. -/
def Config.opcodes (c : Config) : List Byte :=
  [c.opcLockOn, c.opcLockOff, c.opcPttOn, c.opcPttOff, c.opcSplitOn, c.opcSplitOff, c.opcVfoSwap, c.opcPwrOn, c.opcPwrOff,
   c.opcFreqSet, c.opcReadFreqMode, c.opcModeSet, c.opcCtcssMode, c.opcCtcssFreq, c.opcRptShift, c.opcRptOffset,
   c.opcTxMeters, c.opcTxState, c.opcRxStatus, c.opcEepromRead] ++ c.opcTxState2.toList

/-- Byte i of the BCD register when power comes on: "a model takes each as a free draw" (70_reset_and_hazards.md R232). -/
opaque Config.freeBcdByte : Nat → Byte

/-- The `status` output where the spec leaves it unspecified (R233; R26), one value per draw. -/
opaque Config.freeStatus : Nat → BitVec 3

/-- The `result` output where the spec leaves it unspecified (R233; R26), one value per draw. -/
opaque Config.freeResult : Nat → Word

/-- The `resp_len` output where the spec leaves it unspecified (R233; R26), one value per draw. -/
opaque Config.freeRespLen : Nat → BitVec 3

/-- The `out_byte` port while `out_valid` is 0 (41_frame_builder.md R121, R123 give it no value there), one value per count of
draws (log 15). -/
opaque Config.freeOutByte : Nat → Byte

/-- Which of the bytes R72 leaves for `OPC_TX_STATE2` the default instance has: no source gives the value. -/
opaque Config.freeTxState2 : Nat

/-- How far `BAD_READ` of the default host lies above the encodable range: no source gives the value (R185). -/
opaque Config.freeBadRead : Nat

/-! ## Parameters of the host (R5, the rows marked host) -/

/-- The twelve modes of 48_host_interface.md R187. -/
inductive ModeName where
  | lsb | usb | cw | cwr | am | fm | fmn | dig | pkt | cwNarrow | cwrNarrow | digNarrow
  deriving DecidableEq, Repr

/-- The four nibbles of the two TX meter bytes (R190). -/
inductive MeterNibble where
  | hiS0 | loS0 | hiS1 | loS1
  deriving DecidableEq, Repr

/-- `METER_MAP` (R190; decision D32): which nibble is which meter. -/
structure MeterMap where
  pwr : MeterNibble
  alc : MeterNibble
  swr : MeterNibble
  mod : MeterNibble
  deriving DecidableEq, Repr

/-- A TX-state sentinel and the direction of the comparison with it (R191: "Both are OPEN"). -/
structure TxSentinel where
  sentinel : Byte
  /-- what an answer equal to the sentinel means: `true` for "transmitting" -/
  equalMeans : Bool
  deriving DecidableEq, Repr

/-- The host's parameters (R5). Units are in tenths of a hertz, so that the default tone unit 0.1 Hz is the number 1. -/
structure HostConfig where
  /-- `T_BYTE` in milliseconds (R184); no rule of the model depends on it (70_reset_and_hazards.md R244) -/
  tByteMs : Nat
  /-- `T_FM` in milliseconds (R185) -/
  tFmMs : Nat
  freqUnitTenthHz : Nat
  toneUnitTenthHz : Nat
  /-- `MODE_CODES`: the byte of each mode that has one (R187) -/
  modeCodes : List (Byte × ModeName)
  /-- `SMETER_CODES`: the key byte of S0, S1, ..., +60 in that order (R192) -/
  smeterCodes : List Byte
  /-- `TXSTATE_IDLE`: `none` where the instance does not supply it (decision D35) -/
  txState : Option TxSentinel
  /-- `TXSTATE2_IDLE` -/
  txState2 : Option TxSentinel
  meterMap : MeterMap
  /-- `BAD_READ`, constrained to be over 99999999 (decision D36) -/
  badRead : Nat
  deriving DecidableEq, Repr

end Sys2Proof
end

