-- ==== Sys2Proof/Syntax.lean ====
section
/-! DEFINITION. The 24 commands of opcode_table.json (30_encoding.md R61), one constructor a row, each with the operands
30_encoding.md R63 and R64 read from `arg` and `aux`. -/

namespace Sys2Proof

/-- A command. Operands are what the command's rule computes with: an unsigned number where R63 reads `uint32(arg)`, an
integer where it reads `sint32(arg)`, a word where it reads four bytes, a count where R64 reads `aux`. -/
inductive Instr where
  /-- ENC v, n (R92) -/
  | enc (v : Nat) (n : Nat)
  /-- DEC w, k (R95) -/
  | dec (w : Word) (k : Nat)
  | pwrOn
  | pwrOff
  | lockOn
  | lockOff
  /-- SET_FREQ f (R144) -/
  | setFreq (f : Nat)
  | readFreqMode
  /-- SET_MODE m (R146) -/
  | setMode (m : Nat)
  | splitOn
  | splitOff
  | vfoSwap
  | pttOn
  | pttOff
  /-- RPT_DIR o (R152) -/
  | rptDir (o : Int)
  /-- RPT_OFFSET o (R153) -/
  | rptOffset (o : Int)
  | ctcssEncOn
  | ctcssEncOff
  /-- SET_CTCSS_FREQ t (R156) -/
  | setCtcssFreq (t : Nat)
  | readTxMeters
  | readTxState
  | readTxState2
  | readRxStatus
  /-- READ_EEPROM a (R161) -/
  | readEeprom (a : Nat)
  deriving DecidableEq, Repr

end Sys2Proof
end

