-- ==== Sys2Proof/WellFormed.lean ====
section
/-! DEFINITION. When a command's operands fit the fields of the command word (30_encoding.md R78), and when an instance's
parameters are well formed (R72, R73). -/

namespace Sys2Proof

/-- An unsigned value fits `arg`: 0..2^32-1 (R78). -/
def fitsArg (v : Nat) : Bool := v < 2 ^ 32

/-- A count fits `aux`: 0..15 (R78). -/
def fitsAux (n : Nat) : Bool := n < 16

/-- A signed value fits `arg`: -2^31..2^31-1 (R78). -/
def fitsSigned (o : Int) : Bool := -(2 ^ 31) ≤ o && o < 2 ^ 31

/-- An EEPROM address: 0..0xFFFF (R78). -/
def fitsAddr (a : Nat) : Bool := a < 2 ^ 16

/-- "It refuses an operand that does not fit its field" (R78). A value that fits but is out of range for the command, such
as `SET_MODE 9`, is well formed: "the block ignores" it (R76). -/
def Instr.wf : Instr → Bool
  | .enc v n => fitsArg v && fitsAux n
  | .dec _ k => fitsAux k
  | .pwrOn => true
  | .pwrOff => true
  | .lockOn => true
  | .lockOff => true
  | .setFreq f => fitsArg f
  | .readFreqMode => true
  | .setMode m => fitsArg m
  | .splitOn => true
  | .splitOff => true
  | .vfoSwap => true
  | .pttOn => true
  | .pttOff => true
  | .rptDir o => fitsSigned o
  | .rptOffset o => fitsSigned o
  | .ctcssEncOn => true
  | .ctcssEncOff => true
  | .setCtcssFreq t => fitsArg t
  | .readTxMeters => true
  | .readTxState => true
  | .readTxState2 => true
  | .readRxStatus => true
  | .readEeprom a => fitsAddr a

abbrev Instr.WellFormed (i : Instr) : Prop := i.wf = true

/-- "the 21 opcodes above, together with the two CTCSS sub-codes of rule R73 ..., are pairwise distinct. A model instance
whose parameters break this is ill-formed" (R72); the three directions are pairwise distinct (R73). -/
def Config.wf (c : Config) : Bool :=
  decide (c.opcodes ++ [c.ctcssEncOnCode, c.ctcssOffCode]).Nodup && decide [c.dirMinus, c.dirPlus, c.dirSimplex].Nodup

abbrev Config.WellFormed (c : Config) : Prop := c.wf = true

/-- The host's parameters: the codes of 48_host_interface.md R187 are distinct bytes for distinct labels ("a map from 12 distinct
bytes to the 12 labels"), those of R192 are 16 distinct bytes, and `BAD_READ` lies outside the encodable range (decision D36). -/
def HostConfig.wf (h : HostConfig) : Bool :=
  decide (h.modeCodes.map Prod.fst).Nodup && decide (h.modeCodes.map Prod.snd).Nodup && decide h.smeterCodes.Nodup
    && h.smeterCodes.length == 16 && decide (99999999 < h.badRead)

end Sys2Proof
end

