-- ==== Sys2Proof/Decode.lean ====
section
/-! DEFINITION. The decoder of the command word, total on every 41-bit word, then the encoder (30_encoding.md R60 to R64). -/

namespace Sys2Proof

/-- `sel` = CW[40:36] (R60). -/
def selOf (cw : CmdWord) : BitVec 5 := cw.extractLsb' 36 5

/-- `aux` = CW[35:32] (R60). -/
def auxOf (cw : CmdWord) : BitVec 4 := cw.extractLsb' 32 4

/-- `arg` = CW[31:0] (R60). -/
def argOf (cw : CmdWord) : Word := cw.extractLsb' 0 32

/-- `uint32(w)` (00_scope.md R7). -/
def uint32 (w : Word) : Nat := w.toNat

/-- `sint32(w)` (R7). -/
def sint32 (w : Word) : Int := w.toInt

/-- Why a command word is no command. -/
inductive DecodeError where
  /-- `sel` in 0x18..0x1F (R62) -/
  | reservedSelector (sel : BitVec 5)
  deriving DecidableEq, Repr

/-- The decoder: the selector map of R61 with the operands R63 and R64 read. `aux` and the bits of `arg` that a command
does not use are don't care (R63, R64). -/
def decode (cw : CmdWord) : Except DecodeError Instr :=
  match (selOf cw).toNat with
  | 0x00 => .ok (.enc (uint32 (argOf cw)) (auxOf cw).toNat)
  | 0x01 => .ok (.dec (argOf cw) (auxOf cw).toNat)
  | 0x02 => .ok .pwrOn
  | 0x03 => .ok .pwrOff
  | 0x04 => .ok .lockOn
  | 0x05 => .ok .lockOff
  | 0x06 => .ok (.setFreq (uint32 (argOf cw)))
  | 0x07 => .ok .readFreqMode
  | 0x08 => .ok (.setMode (uint32 (argOf cw)))
  | 0x09 => .ok .splitOn
  | 0x0A => .ok .splitOff
  | 0x0B => .ok .vfoSwap
  | 0x0C => .ok .pttOn
  | 0x0D => .ok .pttOff
  | 0x0E => .ok (.rptDir (sint32 (argOf cw)))
  | 0x0F => .ok (.rptOffset (sint32 (argOf cw)))
  | 0x10 => .ok .ctcssEncOn
  | 0x11 => .ok .ctcssEncOff
  | 0x12 => .ok (.setCtcssFreq (uint32 (argOf cw)))
  | 0x13 => .ok .readTxMeters
  | 0x14 => .ok .readTxState
  | 0x15 => .ok .readTxState2
  | 0x16 => .ok .readRxStatus
  | 0x17 => .ok (.readEeprom ((argOf cw).extractLsb' 0 16).toNat)
  | _ => .error (.reservedSelector (selOf cw))

/-- The host's view of the decoder: the instruction of a word of `nbits` bits, bits above them 0. A command word has 41
bits; a longer number is none (log 19). -/
def decodeTableWord (nbits w : Nat) : Option Instr :=
  if w % 2 ^ nbits < 2 ^ 41 then
    match decode (BitVec.ofNat 41 (w % 2 ^ nbits)) with
    | .ok i => some i
    | .error _ => none
  else none

/-- The selector of a command (R61). -/
def Instr.selector : Instr → BitVec 5
  | .enc _ _ => 0x00
  | .dec _ _ => 0x01
  | .pwrOn => 0x02
  | .pwrOff => 0x03
  | .lockOn => 0x04
  | .lockOff => 0x05
  | .setFreq _ => 0x06
  | .readFreqMode => 0x07
  | .setMode _ => 0x08
  | .splitOn => 0x09
  | .splitOff => 0x0A
  | .vfoSwap => 0x0B
  | .pttOn => 0x0C
  | .pttOff => 0x0D
  | .rptDir _ => 0x0E
  | .rptOffset _ => 0x0F
  | .ctcssEncOn => 0x10
  | .ctcssEncOff => 0x11
  | .setCtcssFreq _ => 0x12
  | .readTxMeters => 0x13
  | .readTxState => 0x14
  | .readTxState2 => 0x15
  | .readRxStatus => 0x16
  | .readEeprom _ => 0x17

/-- `CW = (sel << 36) | (aux << 32) | arg` (R60). -/
def packWord (sel : BitVec 5) (aux : BitVec 4) (arg : Word) : CmdWord :=
  ((sel.setWidth 41) <<< 36) ||| ((aux.setWidth 41) <<< 32) ||| (arg.setWidth 41)

/-- The encoder: the command word of a command, fields it does not use 0 (R60, R61, R63, R64; R78: "`arg = off mod 2^32`"). -/
def encode : Instr → CmdWord
  | .enc v n => packWord 0x00 (BitVec.ofNat 4 n) (BitVec.ofNat 32 v)
  | .dec w k => packWord 0x01 (BitVec.ofNat 4 k) w
  | .pwrOn => packWord 0x02 0 0
  | .pwrOff => packWord 0x03 0 0
  | .lockOn => packWord 0x04 0 0
  | .lockOff => packWord 0x05 0 0
  | .setFreq f => packWord 0x06 0 (BitVec.ofNat 32 f)
  | .readFreqMode => packWord 0x07 0 0
  | .setMode m => packWord 0x08 0 (BitVec.ofNat 32 m)
  | .splitOn => packWord 0x09 0 0
  | .splitOff => packWord 0x0A 0 0
  | .vfoSwap => packWord 0x0B 0 0
  | .pttOn => packWord 0x0C 0 0
  | .pttOff => packWord 0x0D 0 0
  | .rptDir o => packWord 0x0E 0 (BitVec.ofInt 32 o)
  | .rptOffset o => packWord 0x0F 0 (BitVec.ofInt 32 o)
  | .ctcssEncOn => packWord 0x10 0 0
  | .ctcssEncOff => packWord 0x11 0 0
  | .setCtcssFreq t => packWord 0x12 0 (BitVec.ofNat 32 t)
  | .readTxMeters => packWord 0x13 0 0
  | .readTxState => packWord 0x14 0 0
  | .readTxState2 => packWord 0x15 0 0
  | .readRxStatus => packWord 0x16 0 0
  | .readEeprom a => packWord 0x17 0 (BitVec.ofNat 32 a)

end Sys2Proof
end

