-- ==== Sys2Proof/Machine/Defaults.lean ====
section
/-! DEFINITION. The parameters of the default instance and the values power-on leaves: what State.reset is made of. -/

namespace Sys2Proof.Machine

/-- The bytes R72 lets `OPC_TX_STATE2` be beside the other defaults: those no default opcode and no default CTCSS sub-code
has (30_encoding.md R72, R73). -/
def spareOpcodes : List Byte :=
  ((List.range 256).map (BitVec.ofNat 8)).filter fun b =>
    !([0x00, 0x80, 0x08, 0x88, 0x02, 0x82, 0x81, 0x0F, 0x8F, 0x01, 0x03, 0x07, 0x0A, 0x0B, 0x09, 0xF9, 0xBD, 0xF7, 0xE7, 0xBB,
       0x4A, 0x8A] : List Byte).contains b

/-- `OPC_TX_STATE2` of the default instance: a free choice among the bytes R72 leaves it. "no default: no source ... gives
its value" (R72): DESIGN CHOICE, log 7. -/
def freeTxState2Opcode : Byte := spareOpcodes.getD (Config.freeTxState2 % spareOpcodes.length) 0

/-- The default instance (00_scope.md R5; 30_encoding.md R72, R73). Its opcode and sub-code bytes and EEPROM_RESP_LEN are
PRESUMED: the spec marks them "from general knowledge, not in source" (log 6). -/
def defaultConfig : Config where
  oddNibblePolicy := .literal
  pwrOnWakeBytes := 1
  opcLockOn := 0x00
  opcLockOff := 0x80
  opcPttOn := 0x08
  opcPttOff := 0x88
  opcSplitOn := 0x02
  opcSplitOff := 0x82
  opcVfoSwap := 0x81
  opcPwrOn := 0x0F
  opcPwrOff := 0x8F
  opcFreqSet := 0x01
  opcReadFreqMode := 0x03
  opcModeSet := 0x07
  opcCtcssMode := 0x0A
  opcCtcssFreq := 0x0B
  opcRptShift := 0x09
  opcRptOffset := 0xF9
  opcTxMeters := 0xBD
  opcTxState := 0xF7
  opcTxState2 := some freeTxState2Opcode
  opcRxStatus := 0xE7
  opcEepromRead := 0xBB
  dirMinus := 0x09
  dirPlus := 0x49
  dirSimplex := 0x89
  ctcssEncOnCode := 0x4A
  ctcssOffCode := 0x8A
  eepromRespLen := 2

/-- The default host (R5; 48_host_interface.md R187, R190, R192). PRESUMED where the spec says "from general knowledge"
(log 18). `BAD_READ` is a free number over 99999999 (D36); the TX-state sentinels have no default (D35). -/
def defaultHostConfig : HostConfig where
  tByteMs := 200
  tFmMs := 2000
  freqUnitTenthHz := 100
  toneUnitTenthHz := 1
  modeCodes :=
    [(0x00, .lsb), (0x01, .usb), (0x02, .cw), (0x03, .cwr), (0x04, .am), (0x08, .fm), (0x0A, .dig), (0x0C, .pkt),
     (0x88, .fmn)]
  smeterCodes := (List.range 16).map (BitVec.ofNat 8)
  txState := none
  txState2 := none
  meterMap := { pwr := .hiS0, alc := .loS0, swr := .hiS1, mod := .loS1 }
  badRead := 100000000 + Config.freeBadRead

end Sys2Proof.Machine
end

