-- ==== Sys2Proof/Machine/State.lean ====
section
/-! DEFINITION. The state of the block (10_state.md R20 to R30), what the host presents to it, and the state after reset. -/

namespace Sys2Proof.Machine

/-- `bcd_buf`, "4 bytes, `bcd_buf[0]` to `bcd_buf[3]`" (R21). -/
structure BcdReg where
  b0 : Byte
  b1 : Byte
  b2 : Byte
  b3 : Byte
  deriving DecidableEq, Repr

/-- The three per-command outputs (R26; 41_frame_builder.md R120). -/
structure Outputs where
  status : BitVec 3
  result : Word
  respLen : BitVec 3
  deriving DecidableEq, Repr

/-- What the input ports hold at one rising edge of `clk` (41_frame_builder.md R121). -/
structure PortIn where
  rst : Bool
  cmdValid : Bool
  cmdWord : CmdWord
  outReady : Bool
  deriving DecidableEq, Repr

/-- What the host does next (log 2). -/
inductive Input where
  /-- one transaction (R117): the host presents the word until the block accepts it and takes every byte offered -/
  | command (cw : CmdWord)
  /-- one rising edge of `clk` (R121 to R124) -/
  | edge (p : PortIn)
  deriving DecidableEq, Repr

/-- The state of the machine. -/
structure State where
  /-- the instance's build parameters, never written (R27) -/
  cfg : Config
  /-- `bcd_buf` (R21) -/
  bcd : BcdReg
  /-- "emitter busy" (R24) -/
  busy : Bool
  /-- the byte sequence of the command in progress; empty when there is none (R24, log 8) -/
  q : List Byte
  /-- `emit_idx`, "index of the next byte of q to transfer" (R25) -/
  emitIdx : Nat
  /-- the wire, oldest byte first (20_memory.md R41) -/
  wire : List Byte
  /-- the outputs `status`, `result`, `resp_len` (R26) -/
  outs : Outputs
  /-- the `done` pulse (41_frame_builder.md R124) -/
  done : Bool
  /-- the model's own field: the outputs the command in progress will show at its `done` (log 10) -/
  held : Option Outputs
  /-- what the host presents from here on, first to come first (log 2) -/
  inputs : List Input
  /-- the model's own field: how many free draws have been made (log 5) -/
  draws : Nat
  deriving DecidableEq, Repr

/-- Faults: none. "The block raises no exception and takes no trap" (60_exceptions.md R210). -/
inductive Fault where
  deriving DecidableEq, Repr

/-- Why a step has no meaning. -/
inductive Refusal where
  /-- raised by an arm of `exec` whose instruction has no meaning yet; safe (no arm is in this state) -/
  | notModelled (mnemonic : String)
  /-- raised by READ_TX_STATE2 in an instance that does not supply `OPC_TX_STATE2`: it "has no meaning for this command and
  must refuse it, not guess a byte" (42_commands.md R159); safe -/
  | opcTxState2NotSupplied
  deriving DecidableEq, Repr

/-- The machine right after reset (70_reset_and_hazards.md R231 to R233, R235): the emitter idle, the wire empty, `bcd_buf`
and the outputs free values (logs 3, 4), the default parameters (log 6), nothing presented (log 2). -/
def State.reset : State where
  cfg := defaultConfig
  bcd := ⟨Config.freeBcdByte 0, Config.freeBcdByte 1, Config.freeBcdByte 2, Config.freeBcdByte 3⟩
  busy := false
  q := []
  emitIdx := 0
  wire := []
  outs := ⟨Config.freeStatus 0, Config.freeResult 0, Config.freeRespLen 0⟩
  done := false
  held := none
  inputs := []
  draws := 1

end Sys2Proof.Machine
end

