-- ==== Sys2Proof/Machine/Operands.lean ====
section
/-! DEFINITION. How operands become digits, nibbles and bytes (00_scope.md R7, R8; 30_encoding.md R63, R70, R74;
40_bcd_codec.md R90, R91, R95). -/

namespace Sys2Proof.Machine

/-- `digit(v, j) = (v div 10^j) mod 10` (R8, R90). -/
def digit (v j : Nat) : Nat := v / 10 ^ j % 10

/-- A decimal digit as a nibble: "every nibble the encoder produces is a legal BCD digit" (R90). -/
def digitNibble (v j : Nat) : Nibble := BitVec.ofNat 4 (digit v j)

/-- `pair(h, l) = (h << 4) | l` (R8). -/
def pair (h l : Nibble) : Byte := ((h.setWidth 8) <<< 4) ||| (l.setWidth 8)

/-- `hi(b) = b[7:4]` (R8). -/
def hi (b : Byte) : Nibble := b.extractLsb' 4 4

/-- `lo(b) = b[3:0]` (R8). -/
def lo (b : Byte) : Nibble := b.extractLsb' 0 4

/-- `BCD_BYTES(v, n)` (R91): n/2 bytes, `B_i = pair(digit(v, n-1-2i), digit(v, n-2-2i))`. -/
def bcdBytes (v n : Nat) : List Byte :=
  (List.range (n / 2)).map fun i => pair (digitNibble v (n - 1 - 2 * i)) (digitNibble v (n - 2 - 2 * i))

/-- The four bytes of a word, `b0 = w[31:24]` first (R63, R95; 20_memory.md R44). -/
def wordBytes (w : Word) : List Byte :=
  [w.extractLsb' 24 8, w.extractLsb' 16 8, w.extractLsb' 8 8, w.extractLsb' 0 8]

/-- Four bytes packed into a word, byte 0 in bits [31:24] (20_memory.md R44). -/
def packBytes (b0 b1 b2 b3 : Byte) : Word :=
  ((b0.setWidth 32) <<< 24) ||| ((b1.setWidth 32) <<< 16) ||| ((b2.setWidth 32) <<< 8) ||| (b3.setWidth 32)

/-- One decoded byte: `r*100 + hi*10 + lo` (R95), for every nibble value (R96). -/
def decodeByte (r : Nat) (b : Byte) : Nat := r * 100 + (hi b).toNat * 10 + (lo b).toNat

/-- The bytes of a packed BCD value decoded, most significant byte first (R95). -/
def decodeBytes (bs : List Byte) : Nat := bs.foldl decodeByte 0

/-- `arg[7:0]` of the mode operand (R74). -/
def modeByte (m : Nat) : Byte := BitVec.ofNat 8 m

/-- `AH = arg[15:8]` (R70). -/
def addrHi (a : Nat) : Byte := BitVec.ofNat 8 (a / 2 ^ 8)

/-- `AL = arg[7:0]` (R70). -/
def addrLo (a : Nat) : Byte := BitVec.ofNat 8 a

/-- The sign of the offset to a direction sub-code (R74; 42_commands.md R152). -/
def directionCode (c : Config) (o : Int) : Byte :=
  if 0 < o then c.dirPlus else if o < 0 then c.dirMinus else c.dirSimplex

/-- `abs(o)`, a natural number "with no overflow" (R7; 42_commands.md R153). -/
def magnitude (o : Int) : Nat := o.natAbs

end Sys2Proof.Machine
end

