-- ==== Sys2Proof/Machine/Flags.lean ====
section
/-! DEFINITION. The block has "no flags and no condition codes" (10_state.md R26). What stands in their place: the
completion codes of `status` (60_exceptions.md R211) and the output `bcd_out` (10_state.md R22). -/

namespace Sys2Proof.Machine

/-- The completion codes (R211). -/
inductive Status where
  | ok
  | reservedSel
  | badDigitCount
  | badByteCount
  | modeRange
  deriving DecidableEq, Repr

/-- The code on `status[2:0]` (R211). Codes 5..7 are never produced. -/
def statusCode : Status → BitVec 3
  | .ok => 0
  | .reservedSel => 1
  | .badDigitCount => 2
  | .badByteCount => 3
  | .modeRange => 4

/-- `bcd_out` (R22). -/
def bcdOut (r : BcdReg) : Word := packBytes r.b0 r.b1 r.b2 r.b3

end Sys2Proof.Machine
end

