-- ==== Sys2Proof/Machine/Ops.lean ====
section
/-! DEFINITION. The named operations over the block's state: the BCD register, the wire, completion, ignoring, the frame
shapes, the emitter and reset. -/

namespace Sys2Proof.Machine

/-- The three outcomes of a command or a step (Host/Core.lean). -/
abbrev Result := Host.Outcome State Fault Refusal

/-! ## The BCD register (10_state.md R21) -/

/-- `bcd_buf[i]`. The register has bytes 0..3; no rule reads another index, and the model answers 0 there. -/
def readBcd (r : BcdReg) (i : Nat) : Byte :=
  match i with
  | 0 => r.b0
  | 1 => r.b1
  | 2 => r.b2
  | 3 => r.b3
  | _ => 0

/-- `bcd_buf[i] <- v`. No rule writes an index over 3. -/
def writeBcd (r : BcdReg) (i : Nat) (v : Byte) : BcdReg :=
  match i with
  | 0 => { r with b0 := v }
  | 1 => { r with b1 := v }
  | 2 => { r with b2 := v }
  | 3 => { r with b3 := v }
  | _ => r

/-- `MAX_DIGITS` (00_scope.md R5). -/
abbrev maxDigits : Nat := 8

/-- `MAX_DEC_BYTES` (00_scope.md R5). -/
abbrev maxDecBytes : Nat := 4

/-- The full digit pairs of ENC, `for i in 0 .. m-1` (40_bcd_codec.md R92). -/
def encPairs (v n : Nat) (m : Nat) (r : BcdReg) : BcdReg :=
  match m with
  | 0 => r
  | i + 1 => writeBcd (encPairs v n i r) i (pair (digitNibble v (n - 1 - 2 * i)) (digitNibble v (n - 2 - 2 * i)))

/-- The high nibble an odd digit count leaves in its last byte (40_bcd_codec.md R93). -/
def oddHighNibble (p : OddNibblePolicy) (old : Byte) : Nibble :=
  match p with
  | .literal => hi old
  | .prezero => 0

/-- The register after ENC of a legal digit count (40_bcd_codec.md R92, R93). -/
def encReg (p : OddNibblePolicy) (v n : Nat) (r : BcdReg) : BcdReg :=
  let m := n / 2
  let r' := encPairs v n m r
  if n % 2 = 1 then writeBcd r' m (pair (oddHighNibble p (readBcd r' m)) (digitNibble v 0)) else r'

/-! ## Emission and completion (00_scope.md R9; 41_frame_builder.md R117, R118, R120, R124) -/

/-- `Emit(s)`: "appends the byte sequence s to the wire, in order" (R9). -/
def emit (bs : List Byte) (s : State) : State := { s with wire := s.wire ++ bs }

/-- `return (status, result, resp_len)` (R9): the command completes, its outputs are set and `done` pulses (R120, R124). -/
def complete (st : Status) (result : Word) (respLen : BitVec 3) (s : State) : State :=
  { s with outs := ⟨statusCode st, result, respLen⟩, done := true }

/-- `ignore(cause)`: "leaves `bcd_buf` unchanged and emits no byte. It completes with `status = cause`, `result = 0` and
`resp_len = 0`" (R118). This stands where another machine would take an exception; the block has none (60_exceptions.md
R210, R214), and there is no return from one (R215). -/
def ignore (cause : Status) (s : State) : State := complete cause 0 0 s

/-- What every framed command does: emit its bytes and complete with OK and result 0 (42_commands.md, preface; R120). -/
def sendBytes (bs : List Byte) (respLen : BitVec 3) (s : State) : Result := .next (complete .ok 0 respLen (emit bs s))

/-! ## Frames (41_frame_builder.md R110 to R116; 30_encoding.md R66 to R71) -/

/-- `FILL` (R110). -/
def fill : Byte := 0x00

/-- `PRE3` (R111). -/
def pre3 : List Byte := [fill, fill, fill]

/-- `PRE4 = [FILL] ++ PRE3` (R112). -/
def pre4 : List Byte := [fill] ++ pre3

/-- `FRAME_A(opc)`, format FA (R114). -/
def frameA (opc : Byte) : List Byte := pre4 ++ [opc]

/-- `FRAME_B(d, opc)`, format FB (R115). -/
def frameB (d opc : Byte) : List Byte := [d] ++ pre3 ++ [opc]

/-- `FRAME_C(d0, d1, d2, d3, opc)`, the four data bytes as a list (R116). -/
def frameC (ds : List Byte) (opc : Byte) : List Byte := ds ++ [opc]

/-- The wake prefix W (30_encoding.md R71). -/
def wakePrefix (c : Config) : List Byte := List.replicate c.pwrOnWakeBytes fill

/-! ## The emitter at the port level (10_state.md R24, R25; 41_frame_builder.md R122 to R124) and reset -/

/-- The outputs where the spec leaves them unspecified: three free values, one draw (R26, R124; 70_reset_and_hazards.md R233;
log 4). -/
def drawOutputs (s : State) : State :=
  { s with
    outs := ⟨Config.freeStatus s.draws, Config.freeResult s.draws, Config.freeRespLen s.draws⟩
    draws := s.draws + 1 }

/-- Acceptance loads the emitter: "`q <- out`, `emit_idx <- 0`" and "`busy <- (len(q) > 0)`" (R122). `s` is the state before
the command and `t` the state after the step of R117 taken on an empty wire, so that `t.wire` is `out`. A command that emits
nothing completes here (R124). The outputs are unspecified from here to `done` (log 4) and are held for it (log 10). -/
def loadEmitter (s t : State) : State :=
  match t.wire with
  | [] => { t with wire := s.wire }
  | b :: bs =>
    drawOutputs
      { t with wire := s.wire, q := b :: bs, emitIdx := 0, busy := true, done := false, held := some t.outs }

/-- The emitter with no command in progress (R231; log 8). -/
def clearEmitter (s : State) : State := { s with busy := false, q := [], emitIdx := 0, held := none }

/-- Completion of a command that emits bytes: "`busy <- 0`", `done` pulses, and the outputs are valid (R124). -/
def finishEmission (s : State) : State :=
  clearEmitter
    { s with
      outs := s.held.getD s.outs
      done := true }

/-- One byte transfer: "That byte is appended to the wire, and `emit_idx <- emit_idx + 1`" (R123); the last one completes
the command (R124). -/
def transferByte (s : State) : State :=
  let t := { s with wire := s.wire ++ (s.q[s.emitIdx]?).toList, emitIdx := s.emitIdx + 1, done := false }
  if t.q.length ≤ t.emitIdx then finishEmission t else t

/-- `rst` at an edge: the emitter is cleared, bytes already transferred stay on the wire, `bcd_buf` is not touched, the
outputs are unspecified (70_reset_and_hazards.md R230, R231, R233, R234; log 9). -/
def resetBlock (s : State) : State := drawOutputs (clearEmitter { s with done := false })

end Sys2Proof.Machine
end

