-- ==== Sys2Proof/Machine/Codec.lean ====
section
/-! DEFINITION. The codec commands ENC and DEC (40_bcd_codec.md). -/

namespace Sys2Proof.Machine

/-- ENC v, n (R92 to R94): the low n digits of v go into `bcd_buf`; `result = bcd_out` after the writes. -/
def execEnc (v n : Nat) (s : State) : Result :=
  if maxDigits < n then .next (ignore .badDigitCount s)
  else
    let r := encReg s.cfg.oddNibblePolicy v n s.bcd
    .next (complete .ok (bcdOut r) 0 { s with bcd := r })

/-- DEC w, k (R95, R96): the leading k bytes of w decoded; reads and writes no state. -/
def execDec (w : Word) (k : Nat) (s : State) : Result :=
  if maxDecBytes < k then .next (ignore .badByteCount s)
  else .next (complete .ok (BitVec.ofNat 32 (decodeBytes ((wordBytes w).take k))) 0 s)

end Sys2Proof.Machine
end

