-- ==== Sys2Proof/Machine/Power.lean ====
section
/-! DEFINITION. Power and lock commands (42_commands.md sections 1 and 2). -/

namespace Sys2Proof.Machine

/-- PWR_ON (R140): the wake prefix, then an FA frame; no response. -/
def execPwrOn (s : State) : Result := sendBytes (wakePrefix s.cfg ++ frameA s.cfg.opcPwrOn) 0 s

/-- PWR_OFF (R141): no response. -/
def execPwrOff (s : State) : Result := sendBytes (frameA s.cfg.opcPwrOff) 0 s

/-- LOCK_ON (R142). -/
def execLockOn (s : State) : Result := sendBytes (frameA s.cfg.opcLockOn) 1 s

/-- LOCK_OFF (R143). -/
def execLockOff (s : State) : Result := sendBytes (frameA s.cfg.opcLockOff) 1 s

end Sys2Proof.Machine
end

