-- ==== Sys2Proof/Machine/Reads.lean ====
section
/-! DEFINITION. The read commands (42_commands.md section 8). -/

namespace Sys2Proof.Machine

/-- READ_TX_METERS (R157): one unconditional response byte. -/
def execReadTxMeters (s : State) : Result := sendBytes (frameA s.cfg.opcTxMeters) 1 s

/-- READ_TX_STATE (R158). -/
def execReadTxState (s : State) : Result := sendBytes (frameA s.cfg.opcTxState) 1 s

/-- READ_TX_STATE2 (R159): refused where the instance does not supply `OPC_TX_STATE2`. -/
def execReadTxState2 (s : State) : Result :=
  match s.cfg.opcTxState2 with
  | some opc => sendBytes (frameA opc) 1 s
  | none => .refused .opcTxState2NotSupplied

/-- READ_RX_STATUS (R160). -/
def execReadRxStatus (s : State) : Result := sendBytes (frameA s.cfg.opcRxStatus) 1 s

/-- READ_EEPROM a (R161): the address, high byte first, and two fillers; `EEPROM_RESP_LEN` response bytes. -/
def execReadEeprom (a : Nat) (s : State) : Result :=
  sendBytes (frameC [addrHi a, addrLo a, fill, fill] s.cfg.opcEepromRead) s.cfg.eepromRespLen s

end Sys2Proof.Machine
end

