-- ==== Sys2Proof/Machine/Repeater.lean ====
section
/-! DEFINITION. Repeater shift and CTCSS commands (42_commands.md sections 6 and 7). -/

namespace Sys2Proof.Machine

/-- RPT_DIR o (R152): the sign of o selects the direction sub-code. -/
def execRptDir (o : Int) (s : State) : Result := sendBytes (frameB (directionCode s.cfg o) s.cfg.opcRptShift) 1 s

/-- RPT_OFFSET o (R153): the low 8 digits of the magnitude of o. -/
def execRptOffset (o : Int) (s : State) : Result := sendBytes (frameC (bcdBytes (magnitude o) 8) s.cfg.opcRptOffset) 1 s

/-- CTCSS_ENC_ON (R154). -/
def execCtcssEncOn (s : State) : Result := sendBytes (frameB s.cfg.ctcssEncOnCode s.cfg.opcCtcssMode) 1 s

/-- CTCSS_ENC_OFF (R155). -/
def execCtcssEncOff (s : State) : Result := sendBytes (frameB s.cfg.ctcssOffCode s.cfg.opcCtcssMode) 1 s

/-- SET_CTCSS_FREQ t (R156): the low 4 digits of t and two fillers. -/
def execSetCtcssFreq (t : Nat) (s : State) : Result :=
  sendBytes (frameC (bcdBytes t 4 ++ [fill, fill]) s.cfg.opcCtcssFreq) 1 s

end Sys2Proof.Machine
end

