-- ==== Sys2Proof/Machine/Transmit.lean ====
section
/-! DEFINITION. Split, VFO and PTT commands (42_commands.md section 5). -/

namespace Sys2Proof.Machine

/-- SPLIT_ON (R147). -/
def execSplitOn (s : State) : Result := sendBytes (frameA s.cfg.opcSplitOn) 1 s

/-- SPLIT_OFF (R148). -/
def execSplitOff (s : State) : Result := sendBytes (frameA s.cfg.opcSplitOff) 1 s

/-- VFO_SWAP (R149). -/
def execVfoSwap (s : State) : Result := sendBytes (frameA s.cfg.opcVfoSwap) 1 s

/-- PTT_ON (R150). -/
def execPttOn (s : State) : Result := sendBytes (frameA s.cfg.opcPttOn) 1 s

/-- PTT_OFF (R151). -/
def execPttOff (s : State) : Result := sendBytes (frameA s.cfg.opcPttOff) 1 s

end Sys2Proof.Machine
end

