-- ==== Sys2Proof/Machine/Tuning.lean ====
section
/-! DEFINITION. Frequency and mode commands (42_commands.md sections 3 and 4). -/

namespace Sys2Proof.Machine

/-- SET_FREQ f (R144): the low 8 digits of f. -/
def execSetFreq (f : Nat) (s : State) : Result := sendBytes (frameC (bcdBytes f 8) s.cfg.opcFreqSet) 1 s

/-- READ_FREQ_MODE (R145): five response bytes. -/
def execReadFreqMode (s : State) : Result := sendBytes (frameA s.cfg.opcReadFreqMode) 5 s

/-- SET_MODE m (R146): m > 8 is ignored with MODE_RANGE. -/
def execSetMode (m : Nat) (s : State) : Result :=
  if 8 < m then .next (ignore .modeRange s) else sendBytes (frameB (modeByte m) s.cfg.opcModeSet) 1 s

end Sys2Proof.Machine
end

