-- ==== Sys2Proof/Machine/Dispatch.lean ====
section
/-! DEFINITION. The dispatch from a command to its meaning: the transaction-level step (41_frame_builder.md R117) of a
decoded command. -/

namespace Sys2Proof.Machine

def exec (i : Instr) (s : State) : Host.Outcome State Fault Refusal :=
  match i with
  | .enc v n => Sys2Proof.Machine.execEnc v n s
  | .dec w k => Sys2Proof.Machine.execDec w k s
  | .pwrOn => Sys2Proof.Machine.execPwrOn s
  | .pwrOff => Sys2Proof.Machine.execPwrOff s
  | .lockOn => Sys2Proof.Machine.execLockOn s
  | .lockOff => Sys2Proof.Machine.execLockOff s
  | .setFreq f => Sys2Proof.Machine.execSetFreq f s
  | .readFreqMode => Sys2Proof.Machine.execReadFreqMode s
  | .setMode m => Sys2Proof.Machine.execSetMode m s
  | .splitOn => Sys2Proof.Machine.execSplitOn s
  | .splitOff => Sys2Proof.Machine.execSplitOff s
  | .vfoSwap => Sys2Proof.Machine.execVfoSwap s
  | .pttOn => Sys2Proof.Machine.execPttOn s
  | .pttOff => Sys2Proof.Machine.execPttOff s
  | .rptDir o => Sys2Proof.Machine.execRptDir o s
  | .rptOffset o => Sys2Proof.Machine.execRptOffset o s
  | .ctcssEncOn => Sys2Proof.Machine.execCtcssEncOn s
  | .ctcssEncOff => Sys2Proof.Machine.execCtcssEncOff s
  | .setCtcssFreq t => Sys2Proof.Machine.execSetCtcssFreq t s
  | .readTxMeters => Sys2Proof.Machine.execReadTxMeters s
  | .readTxState => Sys2Proof.Machine.execReadTxState s
  | .readTxState2 => Sys2Proof.Machine.execReadTxState2 s
  | .readRxStatus => Sys2Proof.Machine.execReadRxStatus s
  | .readEeprom a => Sys2Proof.Machine.execReadEeprom a s

end Sys2Proof.Machine
end

