-- ==== Sys2Proof/Machine/Port.lean ====
section
/-! DEFINITION. What one input of the host does to the block: a command word at the transaction level (41_frame_builder.md
R117), a rising edge of `clk` at the port level (R121 to R125; 70_reset_and_hazards.md R230 to R234), and the output ports. -/

namespace Sys2Proof.Machine

/-- R117: the step of one command word. A reserved selector is ignored with RESERVED_SEL (30_encoding.md R62). -/
def runWord (cw : CmdWord) (s : State) : Result :=
  match decode cw with
  | .ok i => exec i s
  | .error (.reservedSelector _) => .next (ignore .reservedSel s)

/-- R122: acceptance of a command word at the port level, the step of R117 with its bytes loaded into the emitter. -/
def acceptWord (cw : CmdWord) (s : State) : Result :=
  match runWord cw { s with wire := [] } with
  | .next t => .next (loadEmitter s t)
  | .fault r => .fault r
  | .refused r => .refused r

/-- One rising edge (R122 to R125, R230). `cmd_ready` is 0 while `busy` is 1, so a word presented then waits (R125); while
`out_ready` is 0 nothing is transferred (R123); `done` is "one-cycle" (R121). -/
def clockEdge (p : PortIn) (s : State) : Result :=
  if p.rst then .next (resetBlock s)
  else if s.busy then
    if p.outReady then .next (transferByte s) else .next { s with done := false }
  else if p.cmdValid then acceptWord p.cmdWord s
  else .next { s with done := false }

/-- One input. A command presented at the transaction level while a command is in progress waits, and the transport takes the
next byte ("`out_ready` held at 1", R123): the input is kept and one byte is transferred (R125, log 13). -/
def runInput (s : State) : Result :=
  match s.inputs with
  | [] => .next { s with done := false }
  | .command cw :: rest => if s.busy then .next (transferByte s) else runWord cw { s with inputs := rest }
  | .edge p :: rest => clockEdge p { s with inputs := rest }

/-- The same machine over a list of command words: the transaction level of R117. -/
def runWords (cws : List CmdWord) (s : State) : Result :=
  match cws with
  | [] => .next s
  | cw :: rest =>
    match runWord cw s with
    | .next t => runWords rest t
    | .fault r => .fault r
    | .refused r => .refused r

/-- The same machine over a list of rising edges: the port level of R121 to R125. -/
def runEdges (ps : List PortIn) (s : State) : Result :=
  match ps with
  | [] => .next s
  | p :: rest =>
    match clockEdge p s with
    | .next t => runEdges rest t
    | .fault r => .fault r
    | .refused r => .refused r

/-- "A command is accepted at a rising edge of `clk` where `rst = 0`, `cmd_valid = 1` and `cmd_ready = 1`" (R122). -/
def accepts (p : PortIn) (s : State) : Bool := !p.rst && p.cmdValid && !s.busy

/-- The command words a list of edges has the block accept, in acceptance order (R126). -/
def acceptedWords (ps : List PortIn) (s : State) : List CmdWord :=
  match ps with
  | [] => []
  | p :: rest =>
    (if accepts p s then [p.cmdWord] else []) ++
      (match clockEdge p s with
       | .next t => acceptedWords rest t
       | .fault _ => []
       | .refused _ => [])

/-- The output ports (R121), while the input ports are `p`. -/
structure PortOut where
  cmdReady : Bool
  outByte : Byte
  outValid : Bool
  done : Bool
  status : BitVec 3
  result : Word
  respLen : BitVec 3
  bcdOut : Word
  deriving DecidableEq, Repr

/-- R122 to R124, R230; 10_state.md R22. `out_byte` is a free value while `out_valid` is 0, which it is in an idle block and in
every block while `rst` is 1, a busy one too (R230 gives `out_byte` no value). It is one free value for each count of `draws`, so
it does not change over edges that make no draw: DESIGN CHOICE, log 15. -/
def portOut (p : PortIn) (s : State) : PortOut where
  cmdReady := !p.rst && !s.busy
  outByte :=
    if !p.rst && s.busy then s.q.getD s.emitIdx (Config.freeOutByte s.draws) else Config.freeOutByte s.draws
  outValid := !p.rst && s.busy
  done := !p.rst && s.done
  status := s.outs.status
  result := s.outs.result
  respLen := s.outs.respLen
  bcdOut := Sys2Proof.Machine.bcdOut s.bcd

end Sys2Proof.Machine
end

