-- ==== Sys2Proof/Machine/Step.lean ====
section
/-! DEFINITION. One step of the machine, and how the host places the next command word. -/

namespace Sys2Proof.Machine

/-- One step: the next input of the host is taken (log 2). -/
def step (s : State) : Host.Outcome State Fault Refusal := runInput s

/-- `s` with a command word presented so that the very next step runs it. The block fetches from no memory (20_memory.md R52):
the word is what the host presents next. The emitter is made idle, since a busy one would make the word wait (R125). -/
def State.withFetchWord (s : State) (nbits w : Nat) : State :=
  { clearEmitter s with inputs := .command (BitVec.ofNat 41 (w % 2 ^ nbits)) :: s.inputs }

end Sys2Proof.Machine
end

