-- ==== Sys2Proof/Machine/Assembler.lean ====
section
/-! DEFINITION. The textual syntax for command sequences and the pseudo-instructions (30_encoding.md R78, R79). "the syntax is
not hardware" (92_eei_decisions.md D30); no rule of the block rests on this file. -/

namespace Sys2Proof.Machine

/-- Why the assembler refuses a line; "That refusal is the assembler's and not the block's" (R78). -/
inductive AsmError where
  | unknownMnemonic
  | badOperand
  | operandCount
  | doesNotFit
  deriving DecidableEq, Repr

/-- An operand of R78: a decimal, a negative decimal, or a hexadecimal number. -/
inductive AsmOperand where
  | number (v : Int)
  | hexNumber (v : Nat)
  deriving DecidableEq, Repr

/-- The value of a digit character under 10 or under 16. -/
def digitValue (base : Nat) (c : Char) : Option Nat :=
  let n := c.toNat
  let d :=
    if 48 ≤ n ∧ n ≤ 57 then some (n - 48)
    else if 65 ≤ n ∧ n ≤ 70 then some (n - 55)
    else if 97 ≤ n ∧ n ≤ 102 then some (n - 87)
    else none
  d.bind fun v => if v < base then some v else none

/-- A non-empty digit string in a base. -/
def parseDigits (base : Nat) (cs : List Char) : Option Nat :=
  match cs with
  | [] => none
  | _ :: _ => cs.foldl (fun acc c => acc.bind fun a => (digitValue base c).map fun d => a * base + d) (some 0)

/-- `operand := decimal | '-' decimal | '0x' hexdigits` (R78). -/
def parseOperand (cs : List Char) : Option AsmOperand :=
  match cs with
  | '-' :: ds => (parseDigits 10 ds).map fun v => .number (-(v : Int))
  | '0' :: 'x' :: ds => (parseDigits 16 ds).map .hexNumber
  | ds => (parseDigits 10 ds).map fun v => .number v

/-- Blanks between the parts of a line (log 24). -/
def isBlank (c : Char) : Bool := c == ' ' || c == '\t'

/-- A line's part without the blanks around it. -/
def trimBlanks (cs : List Char) : List Char := ((cs.dropWhile isBlank).reverse.dropWhile isBlank).reverse

/-- A list of characters cut at every `sep`. -/
def splitAtChar (sep : Char) (cs : List Char) : List (List Char) :=
  cs.foldr (fun c acc => if c = sep then [] :: acc else (c :: acc.headD []) :: acc.tail) [[]]

/-- An operand of an unsigned form. -/
def unsignedOperand (o : AsmOperand) : Except AsmError Nat :=
  match o with
  | .number v => if 0 ≤ v then .ok v.toNat else .error .doesNotFit
  | .hexNumber v => .ok v

/-- An operand of a signed form: "a signed decimal, or a 32-bit hex word" (R78). -/
def signedOperand (o : AsmOperand) : Except AsmError Int :=
  match o with
  | .number v => .ok v
  | .hexNumber v => if v < 2 ^ 32 then .ok (sint32 (BitVec.ofNat 32 v)) else .error .doesNotFit

/-- A word operand: "`arg` outside 0..2^32-1" is refused (R78). -/
def wordOperand (o : AsmOperand) : Except AsmError Word := do
  let v ← unsignedOperand o
  if v < 2 ^ 32 then .ok (BitVec.ofNat 32 v) else .error .doesNotFit

/-- Commands that take no operand. -/
def noOperandCommand (m : String) : Option Instr :=
  match m with
  | "PWR_ON" => some .pwrOn
  | "PWR_OFF" => some .pwrOff
  | "LOCK_ON" => some .lockOn
  | "LOCK_OFF" => some .lockOff
  | "READ_FREQ_MODE" => some .readFreqMode
  | "SPLIT_ON" => some .splitOn
  | "SPLIT_OFF" => some .splitOff
  | "VFO_SWAP" => some .vfoSwap
  | "PTT_ON" => some .pttOn
  | "PTT_OFF" => some .pttOff
  | "CTCSS_ENC_ON" => some .ctcssEncOn
  | "CTCSS_ENC_OFF" => some .ctcssEncOff
  | "READ_TX_METERS" => some .readTxMeters
  | "READ_TX_STATE" => some .readTxState
  | "READ_TX_STATE2" => some .readTxState2
  | "READ_RX_STATUS" => some .readRxStatus
  | _ => none

/-- Commands with one operand, and the pseudo-instruction `SET_RPT_SHIFT off` (R79). -/
def oneOperandCommand (m : String) (o : AsmOperand) : Except AsmError (List Instr) :=
  match m with
  | "SET_FREQ" => do return [.setFreq (← unsignedOperand o)]
  | "SET_MODE" => do return [.setMode (← unsignedOperand o)]
  | "SET_CTCSS_FREQ" => do return [.setCtcssFreq (← unsignedOperand o)]
  | "READ_EEPROM" => do return [.readEeprom (← unsignedOperand o)]
  | "RPT_DIR" => do return [.rptDir (← signedOperand o)]
  | "RPT_OFFSET" => do return [.rptOffset (← signedOperand o)]
  | "SET_RPT_SHIFT" => do return [.rptDir (← signedOperand o), .rptOffset (← signedOperand o)]
  | _ => .error .unknownMnemonic

/-- A mnemonic with its operands (R78), the pseudo-instructions expanded (R79). -/
def buildCommands (m : String) (ops : List AsmOperand) : Except AsmError (List Instr) :=
  match ops with
  | [] =>
    if m = "BCD_CLEAR" then .ok [.enc 0 8]
    else
      match noOperandCommand m with
      | some i => .ok [i]
      | none => .error .unknownMnemonic
  | [o] => oneOperandCommand m o
  | [o, c] =>
    if m = "ENC" then do return [.enc (← unsignedOperand o) (← unsignedOperand c)]
    else if m = "DEC" then do return [.dec (← wordOperand o) (← unsignedOperand c)]
    else .error .unknownMnemonic
  | _ => .error .operandCount

/-- One line: `[ command ] [ ';' comment ]` (R78). An operand that does not fit its field is refused. -/
def assembleLine (line : List Char) : Except AsmError (List Instr) :=
  let body := trimBlanks (line.takeWhile (· != ';'))
  match body with
  | [] => .ok []
  | _ :: _ =>
    let m := String.ofList (body.takeWhile (!isBlank ·))
    let rest := trimBlanks (body.dropWhile (!isBlank ·))
    let parts := if rest = [] then [] else (splitAtChar ',' rest).map trimBlanks
    match parts.mapM parseOperand with
    | none => .error .badOperand
    | some ops =>
      match buildCommands m ops with
      | .error e => .error e
      | .ok is => if is.all Instr.wf then .ok is else .error .doesNotFit

/-- A program's commands in order, one line each (R78). The grammar ends every line in a newline; a last line without one is
assembled as well: DESIGN CHOICE, log 24. -/
def assembleChars (src : List Char) : Except AsmError (List Instr) := do
  let parts ← (splitAtChar '\n' src).mapM assembleLine
  return parts.flatten

/-- The command words of a program text (R78). -/
def assemble (src : String) : Except AsmError (List CmdWord) := do
  return (← assembleChars src.toList).map encode

end Sys2Proof.Machine
end

