-- ==== Sys2Proof/Machine/Environment.lean ====
section
/-! DEFINITION. The host side of the block (48_host_interface.md R180 to R198): the software around it, "so that a model of the
block's environment can be built". None of this is part of the block, and none of it is in the block's State. The byte channel
is a structure of its own, with the operations R180 names; the bytes that come back over it are plain data (log 17). -/

namespace Sys2Proof.Machine

/-! ## The transport (R180, R181) -/

/-- The host's byte channel, "a byte-stream duplex channel" (R180). -/
structure Transport where
  /-- the baud rate it was opened with, `none` before that; the rate's value is in no source (R181) -/
  baud : Option Nat
  /-- the bytes written to it since it was opened, oldest first: what reaches the radio -/
  sent : List Byte
  /-- the bytes that have arrived and are not read yet, oldest first -/
  unread : List Byte
  /-- the bytes still to arrive, one list for each timed read to come: those that arrive after the read before it and before it
  ends (log 17) -/
  arrivals : List (List Byte)
  deriving DecidableEq, Repr

/-- `open(baudRate)`. -/
def Transport.openAt (baud : Nat) (t : Transport) : Transport := { t with baud := some baud }

/-- Whether the channel has been opened. -/
def Transport.isOpen (t : Transport) : Bool := t.baud.isSome

/-- `writeByte(b)`. Without opening the transport "the emitted bytes reach no radio" (70_reset_and_hazards.md R236, item 1). -/
def Transport.writeByte (t : Transport) (b : Byte) : Transport :=
  if t.isOpen then { t with sent := t.sent ++ [b] } else t

/-- The block's byte output feeds `writeByte`, one byte after another (R180; 41_frame_builder.md R123). -/
def Transport.writeBytes (t : Transport) (bs : List Byte) : Transport := bs.foldl Transport.writeByte t

/-- `bytesAvailable() -> count`. -/
def Transport.bytesAvailable (t : Transport) : Nat := t.unread.length

/-- `readByte() -> byte`, "non-blocking, valid only when `bytesAvailable() >= 1`": `none` where it is not valid. -/
def Transport.readByte (t : Transport) : Option Byte × Transport :=
  match t.unread with
  | [] => (none, t)
  | b :: rest => (some b, { t with unread := rest })

/-- `flush()`, "discard/settle pending I/O". Bytes written are already sent and stay sent (20_memory.md R41); what is discarded
are the bytes that arrived and are not read: DESIGN CHOICE, log 17. -/
def Transport.flush (t : Transport) : Transport := { t with unread := [] }

/-- The wait of a timed read, to its end: the bytes that arrive meanwhile become available. Over a transport that is not open
nothing arrives (DEDUCED from 70_reset_and_hazards.md R236: no byte reaches the radio either; log 17). -/
def Transport.poll (t : Transport) : Transport :=
  if t.isOpen then { t with unread := t.unread ++ t.arrivals.headD [], arrivals := t.arrivals.tail } else t

/-! ## Timed reads (R184, R185; decision D31) -/

/-- `readOneByte()`: `none` is a timeout. -/
def Transport.readOneByte (t : Transport) : Option Byte × Transport := t.poll.readByte

/-- The original's sentinel: a timeout reads as 0 (R184; 90_conflicts.md C5). -/
def sentinelByte (r : Option Byte) : Byte := r.getD 0

/-- A response of n bytes, one single-byte read after another "until the bytes arrive or the timeout ... expires" (R182): the
reads in order, none made after a timeout (DESIGN CHOICE, log 29). -/
def Transport.readBytes (n : Nat) (t : Transport) : List (Option Byte) × Transport :=
  match n with
  | 0 => ([], t)
  | m + 1 =>
    match t.readOneByte with
    | (none, t') => ([none], t')
    | (some b, t') =>
      let (rs, t'') := t'.readBytes m
      (some b :: rs, t'')

/-- `readFrequencyAndMode()`: once "at least 5 bytes" are available, the four BCD bytes as a word and the mode byte; `none` is a
timeout, which reads no byte (R185). -/
def Transport.readFrequencyAndMode (t : Transport) : Option (Word × Byte) × Transport :=
  let t' := t.poll
  match t'.unread with
  | r0 :: r1 :: r2 :: r3 :: r4 :: rest => (some (packBytes r0 r1 r2 r3, r4), { t' with unread := rest })
  | _ => (none, t')

/-- The original's "bad read" frequency on a timeout (R185; C5). -/
def sentinelFrequency (h : HostConfig) (r : Option Nat) : Nat := r.getD h.badRead

/-- A frequency value in tenths of a hertz (R6; decision D29). -/
def frequencyTenthHz (h : HostConfig) (f : Nat) : Nat := f * h.freqUnitTenthHz

/-- A tone value in tenths of a hertz (D29). -/
def toneTenthHz (h : HostConfig) (t : Nat) : Nat := t * h.toneUnitTenthHz

/-! ## Decoding of answers (R187 to R192) -/

/-- The label of a mode: "the names as the source lists them" (R187). -/
def modeText : ModeName → String
  | .lsb => "LSB"
  | .usb => "USB"
  | .cw => "CW"
  | .cwr => "CWR"
  | .am => "AM"
  | .fm => "FM"
  | .fmn => "FMN"
  | .dig => "DIG"
  | .pkt => "PKT"
  | .cwNarrow => "CW-narrow"
  | .cwrNarrow => "CWR-narrow"
  | .digNarrow => "DIG-narrow"

/-- The mode label of a byte: "Any byte not in the table gets the empty label" (R187). -/
def modeLabel (h : HostConfig) (b : Byte) : String :=
  match h.modeCodes.find? (fun e => e.1 == b) with
  | some e => modeText e.2
  | none => ""

/-- The lock state from the answer to LOCK_ON (`on = true`) or LOCK_OFF: "two mirrored comparisons" with 240 (R188). -/
def lockedFrom (on : Bool) (b : Byte) : Bool := if on then b == 0xF0 else b != 0xF0

/-- The nibble `METER_MAP` names (R190). -/
def meterNibble (s0 s1 : Byte) (n : MeterNibble) : Nibble :=
  match n with
  | .hiS0 => hi s0
  | .loS0 => lo s0
  | .hiS1 => hi s1
  | .loS1 => lo s1

/-- The result of READ_TX_METERS (R190). -/
inductive TxMeters where
  | notTransmitting
  | levels (pwr alc swr mod : Nibble)
  deriving DecidableEq, Repr

/-- R190: a first byte 0 or 255 means "not transmitting" and no second byte is read. -/
def endsMeterRead (s0 : Byte) : Bool := s0 == 0x00 || s0 == 0xFF

/-- R190: "both bytes are split into 4-bit nibbles". -/
def meterLevels (m : MeterMap) (s0 s1 : Byte) : TxMeters :=
  .levels (meterNibble s0 s1 m.pwr) (meterNibble s0 s1 m.alc) (meterNibble s0 s1 m.swr) (meterNibble s0 s1 m.mod)

/-- R191: "comparing b with a sentinel"; `none` where the instance has no sentinel, which "refuses the TX-state decode"
(decision D35). -/
def txStateFrom (t : Option TxSentinel) (b : Byte) : Option Bool :=
  t.map fun x => if b = x.sentinel then x.equalMeans else !x.equalMeans

/-- The sixteen S-meter labels in order (R192). -/
def sMeterLabels : List String :=
  ["S0", "S1", "S2", "S3", "S4", "S5", "S6", "S7", "S8", "S9", "+10", "+20", "+30", "+40", "+50", "+60"]

/-- R192: "A byte not in the table gives the label S0". -/
def sMeterLabel (h : HostConfig) (b : Byte) : String :=
  match (h.smeterCodes.zip sMeterLabels).find? (fun e => e.1 == b) with
  | some e => e.2
  | none => "S0"

/-! ## The host and its round trips (R181, R182, R183) -/

/-- The host with the block it drives and the transport it is bound to. -/
structure HostSide where
  block : State
  hcfg : HostConfig
  transport : Transport
  /-- the last-known values of R197; `mode` holds the mode byte and its label (DESIGN CHOICE, log 30) -/
  mode : Byte × String
  freq : Nat
  tx : Bool
  swr : Nibble
  pwr : Nibble
  alc : Nibble
  mod : Nibble
  wasLocked : Bool
  deriving DecidableEq, Repr

/-- `begin`: the host opens the transport at a baud rate "before the first command" (R181). -/
def HostSide.beginAt (baud : Nat) (h : HostSide) : HostSide := { h with transport := h.transport.openAt baud }

/-- One command: the block runs it, and the bytes it emits go to the transport (R180, R182). "The block is unaffected" by a
transport that was never opened (70_reset_and_hazards.md R236). -/
def issue (i : Instr) (h : HostSide) : Except Refusal HostSide :=
  match exec i h.block with
  | .next t =>
    .ok { h with block := t, transport := h.transport.writeBytes (t.wire.drop h.block.wire.length) }
  | .refused r => .error r
  | .fault f => nomatch f

/-- One round trip: the command, then its response of `resp_len` bytes; a command whose `resp_len` is 0 has no response to read
(R183). "Only after that does it present the next framed command" (R182): what a caller does next starts from the state after
the reads. -/
def roundTrip (i : Instr) (h : HostSide) : Except Refusal (List (Option Byte) × HostSide) := do
  let h' ← issue i h
  let (rs, t) := h'.transport.readBytes h'.block.outs.respLen.toNat
  return (rs, { h' with transport := t })

/-- DEC issued by the host (R186); its answer is the block's `result`. -/
def decodeByBlock (w : Word) (k : Nat) (h : HostSide) : Except Refusal (Nat × HostSide) := do
  let h' ← issue (.dec w k) h
  return (h'.block.outs.result.toNat, h')

/-! ## Operations (R186 to R195) -/

/-- A round trip of which the first response byte is read and given no interpretation (R189). `none` is a timeout, or a command
with no response to read (an ignored SET_MODE, R183), for which `roundTrip` gives the empty list. -/
def acknowledged (i : Instr) (h : HostSide) : Except Refusal (Option Byte × HostSide) := do
  let (rs, h') ← roundTrip i h
  return (rs.head?.join, h')

/-- LOCK_ON and LOCK_OFF with the acknowledgement of R188; a timeout reads as the sentinel 0. -/
def setLock (on : Bool) (h : HostSide) : Except Refusal (Bool × HostSide) := do
  let (r, h') ← acknowledged (if on then .lockOn else .lockOff) h
  let locked := lockedFrom on (sentinelByte r)
  return (locked, { h' with wasLocked := locked })

/-- What READ_FREQ_MODE gives: the frequency of R186, the mode byte and its label. "unrecognized values are left as the byte
only", with the empty label (R187). -/
structure FrequencyReading where
  freq : Nat
  modeByte : Byte
  label : String
  deriving DecidableEq, Repr

/-- READ_FREQ_MODE: the frequency unpacked with DEC, the mode byte and the mode label (R185 to R187); `none` is a timeout, on
which mode decoding is skipped. The caches `freq` and `mode` are written (R197); a timeout leaves them: DESIGN CHOICE, log 31. -/
def readFrequency (h : HostSide) : Except Refusal (Option FrequencyReading × HostSide) := do
  let h' ← issue .readFreqMode h
  match h'.transport.readFrequencyAndMode with
  | (none, t) => return (none, { h' with transport := t })
  | (some (w, m), t) =>
    let (f, h'') ← decodeByBlock w 4 { h' with transport := t }
    let label := modeLabel h''.hcfg m
    return (some ⟨f, m, label⟩, { h'' with freq := f, mode := (m, label) })

/-- READ_TX_METERS (R190): one byte, and a second one unless the first is 0 or 255; `none` is a timeout of either read. The
caches `tx`, `pwr`, `alc`, `swr`, `mod` are written (R197); a timeout leaves all of them and "not transmitting" leaves the four
levels: DESIGN CHOICE, log 31. -/
def readMeters (h : HostSide) : Except Refusal (Option TxMeters × HostSide) := do
  let h' ← issue .readTxMeters h
  match h'.transport.readOneByte with
  | (none, t) => return (none, { h' with transport := t })
  | (some s0, t) =>
    if endsMeterRead s0 then return (some .notTransmitting, { h' with transport := t, tx := false })
    else
      match t.readOneByte with
      | (none, t') => return (none, { h' with transport := t' })
      | (some s1, t') =>
        let m := h'.hcfg.meterMap
        return (some (meterLevels m s0 s1),
          { h' with
            transport := t'
            tx := true
            pwr := meterNibble s0 s1 m.pwr
            alc := meterNibble s0 s1 m.alc
            swr := meterNibble s0 s1 m.swr
            mod := meterNibble s0 s1 m.mod })

/-- What a TX-state read gives. -/
inductive TxStateRead where
  | transmitting (on : Bool)
  | timeout
  /-- the instance has no sentinel: it "refuses the TX-state decode" (decision D35) -/
  | refused
  deriving DecidableEq, Repr

/-- READ_TX_STATE (`second = false`) and READ_TX_STATE2 (R191). R190 alone names the cache `tx`, so this leaves it: DESIGN
CHOICE, log 31. -/
def readTransmitState (second : Bool) (h : HostSide) : Except Refusal (TxStateRead × HostSide) := do
  let (r, h') ← acknowledged (if second then .readTxState2 else .readTxState) h
  let t := if second then h'.hcfg.txState2 else h'.hcfg.txState
  match r with
  | none => return (.timeout, h')
  | some b =>
    match txStateFrom t b with
    | none => return (.refused, h')
    | some on => return (.transmitting on, h')

/-- READ_RX_STATUS (R192); `none` is a timeout. -/
def readSMeter (h : HostSide) : Except Refusal (Option String × HostSide) := do
  let (r, h') ← acknowledged .readRxStatus h
  return (r.map (sMeterLabel h'.hcfg), h')

/-- READ_EEPROM: the raw response bytes, of which no rule gives a reading (R193; 93_implementation_defined.md I7). R182 gives
`resp_len` bytes and no reader for them: they are read one by one up to a timeout, which shows as a last `none`: DESIGN CHOICE,
log 29. -/
def readEepromRaw (a : Nat) (h : HostSide) : Except Refusal (List (Option Byte) × HostSide) := roundTrip (.readEeprom a) h

/-- `SET_RPT_SHIFT off`: RPT_DIR, its ack, then RPT_OFFSET, its ack (R195). -/
def setRepeaterShift (off : Int) (h : HostSide) : Except Refusal ((Option Byte × Option Byte) × HostSide) := do
  let (a1, h1) ← acknowledged (.rptDir off) h
  let (a2, h2) ← acknowledged (.rptOffset off) h1
  return ((a1, a2), h2)

/-- One cycle of the verified set: SET_FREQ, its ack, READ_FREQ_MODE, and whether the frequency read back is f; "A read timeout
counts as a mismatch" (R194; log 26 on f over 99999999). That is taken of the READ_FREQ_MODE read alone: a timeout of SET_FREQ's
ack, which is "read and ignored" (R189), does not end the cycle: DESIGN CHOICE, log 32. -/
def verifyCycle (f : Nat) (h : HostSide) : Except Refusal (Bool × HostSide) := do
  let (_, h1) ← acknowledged (.setFreq f) h
  let (r, h2) ← readFrequency h1
  return (r.map FrequencyReading.freq == some f, h2)

/-- `verifiedSetFreq(f)`: a cycle at most twice; `false` is the explicit communication-failure result (R194; C6). -/
def verifiedSetFreq (f : Nat) (h : HostSide) : Except Refusal (Bool × HostSide) := do
  let (ok, h1) ← verifyCycle f h
  if ok then return (true, h1)
  else verifyCycle f h1

end Sys2Proof.Machine
end

