-- ==== Sys2Proof/Machine/FrameReader.lean ====
section
/-! DEFINITION. The opcode map "read as a frame decoder would read it" (30_encoding.md R65, R75), and the reading each framed
command's own frame should have. The block itself reads no frame; this is how a reader of the wire tells its frames apart. -/

namespace Sys2Proof.Machine

/-- The 22 operations a frame can carry (R61, selectors 0x02 to 0x17). -/
inductive CatOp where
  | pwrOn | pwrOff | lockOn | lockOff | setFreq | readFreqMode | setMode | splitOn | splitOff | vfoSwap | pttOn | pttOff
  | rptDir | rptOffset | ctcssEncOn | ctcssEncOff | setCtcssFreq | readTxMeters | readTxState | readTxState2 | readRxStatus
  | readEeprom
  deriving DecidableEq, Repr

/-- The 40-bit frame word `FW`, F0 in bits [39:32] and F4 in bits [7:0] (R65), as the five bytes of the frame. -/
def frameOfWord (fw : BitVec 40) : List Byte :=
  [fw.extractLsb' 32 8, fw.extractLsb' 24 8, fw.extractLsb' 16 8, fw.extractLsb' 8 8, fw.extractLsb' 0 8]

/-- The frame reader of R75: byte F4 selects the operation, for `OPC_CTCSS_MODE` byte F0 then selects the variant, and the
data bytes are those of the operation's format. Filler positions are not looked at (log 23). -/
def readFrame (c : Config) (f : List Byte) : Option (CatOp × List Byte) :=
  match f with
  | [f0, f1, f2, f3, f4] =>
    if f4 = c.opcLockOn then some (.lockOn, [])
    else if f4 = c.opcLockOff then some (.lockOff, [])
    else if f4 = c.opcPttOn then some (.pttOn, [])
    else if f4 = c.opcPttOff then some (.pttOff, [])
    else if f4 = c.opcSplitOn then some (.splitOn, [])
    else if f4 = c.opcSplitOff then some (.splitOff, [])
    else if f4 = c.opcVfoSwap then some (.vfoSwap, [])
    else if f4 = c.opcPwrOn then some (.pwrOn, [])
    else if f4 = c.opcPwrOff then some (.pwrOff, [])
    else if f4 = c.opcFreqSet then some (.setFreq, [f0, f1, f2, f3])
    else if f4 = c.opcReadFreqMode then some (.readFreqMode, [])
    else if f4 = c.opcModeSet then some (.setMode, [f0])
    else if f4 = c.opcCtcssMode then
      if f0 = c.ctcssEncOnCode then some (.ctcssEncOn, [])
      else if f0 = c.ctcssOffCode then some (.ctcssEncOff, [])
      else none
    else if f4 = c.opcCtcssFreq then some (.setCtcssFreq, [f0, f1])
    else if f4 = c.opcRptShift then some (.rptDir, [f0])
    else if f4 = c.opcRptOffset then some (.rptOffset, [f0, f1, f2, f3])
    else if f4 = c.opcTxMeters then some (.readTxMeters, [])
    else if f4 = c.opcTxState then some (.readTxState, [])
    else if some f4 = c.opcTxState2 then some (.readTxState2, [])
    else if f4 = c.opcRxStatus then some (.readRxStatus, [])
    else if f4 = c.opcEepromRead then some (.readEeprom, [f0, f1])
    else none
  | _ => none

/-- The operation and data bytes a command's frame carries (R74, R75); `none` for the codec commands, which send no frame. -/
def frameReading (c : Config) (i : Instr) : Option (CatOp × List Byte) :=
  match i with
  | .enc _ _ => none
  | .dec _ _ => none
  | .pwrOn => some (.pwrOn, [])
  | .pwrOff => some (.pwrOff, [])
  | .lockOn => some (.lockOn, [])
  | .lockOff => some (.lockOff, [])
  | .setFreq f => some (.setFreq, bcdBytes f 8)
  | .readFreqMode => some (.readFreqMode, [])
  | .setMode m => some (.setMode, [modeByte m])
  | .splitOn => some (.splitOn, [])
  | .splitOff => some (.splitOff, [])
  | .vfoSwap => some (.vfoSwap, [])
  | .pttOn => some (.pttOn, [])
  | .pttOff => some (.pttOff, [])
  | .rptDir o => some (.rptDir, [directionCode c o])
  | .rptOffset o => some (.rptOffset, bcdBytes (magnitude o) 8)
  | .ctcssEncOn => some (.ctcssEncOn, [])
  | .ctcssEncOff => some (.ctcssEncOff, [])
  | .setCtcssFreq t => some (.setCtcssFreq, bcdBytes t 4)
  | .readTxMeters => some (.readTxMeters, [])
  | .readTxState => some (.readTxState, [])
  | .readTxState2 => some (.readTxState2, [])
  | .readRxStatus => some (.readRxStatus, [])
  | .readEeprom a => some (.readEeprom, [addrHi a, addrLo a])

end Sys2Proof.Machine
end

