-- ==== Sys2Proof/Safety.lean ====
section
/-! DEFINITION. The terms the claims use: an idle emitter, the byte runs a command may emit, the machine's invariant, and
the spec's arithmetic written out apart from the model's own operations. -/

namespace Sys2Proof.Machine

/-- No command is in progress: the emitter is as R231 leaves it (10_state.md R20; log 8). -/
abbrev State.Idle (s : State) : Prop := s.busy = false ∧ s.q = [] ∧ s.emitIdx = 0 ∧ s.held = none

/-- The byte with decimal digit j+1 of v in its high nibble and digit j in its low one, as one number (40_bcd_codec.md R91):
the claims' own arithmetic, not the model's `pair`. -/
def decimalByte (v j : Nat) : Byte := BitVec.ofNat 8 (16 * (v / 10 ^ (j + 1) % 10) + v / 10 ^ j % 10)

/-- `sint32(arg)` of a command word as a number (00_scope.md R7): the claims' own arithmetic. -/
def signedArg (cw : CmdWord) : Int :=
  if cw.toNat % 2 ^ 32 < 2 ^ 31 then (cw.toNat % 2 ^ 32 : Nat) else (cw.toNat % 2 ^ 32 : Nat) - 2 ^ 32

/-- The opcode byte of a framed command (30_encoding.md R72, column "used by"). -/
def opcodeOf (c : Config) : Instr → Option Byte
  | .enc _ _ => none
  | .dec _ _ => none
  | .pwrOn => some c.opcPwrOn
  | .pwrOff => some c.opcPwrOff
  | .lockOn => some c.opcLockOn
  | .lockOff => some c.opcLockOff
  | .setFreq _ => some c.opcFreqSet
  | .readFreqMode => some c.opcReadFreqMode
  | .setMode _ => some c.opcModeSet
  | .splitOn => some c.opcSplitOn
  | .splitOff => some c.opcSplitOff
  | .vfoSwap => some c.opcVfoSwap
  | .pttOn => some c.opcPttOn
  | .pttOff => some c.opcPttOff
  | .rptDir _ => some c.opcRptShift
  | .rptOffset _ => some c.opcRptOffset
  | .ctcssEncOn => some c.opcCtcssMode
  | .ctcssEncOff => some c.opcCtcssMode
  | .setCtcssFreq _ => some c.opcCtcssFreq
  | .readTxMeters => some c.opcTxMeters
  | .readTxState => some c.opcTxState
  | .readTxState2 => c.opcTxState2
  | .readRxStatus => some c.opcRxStatus
  | .readEeprom _ => some c.opcEepromRead

/-- A command is one of the codec commands, which send no frame (R61). -/
def isCodec : Instr → Bool
  | .enc _ _ => true
  | .dec _ _ => true
  | _ => false

/-- The completion code R211 gives a command: the cause it is ignored for, or OK. -/
def causeOf : Instr → Status
  | .enc _ n => if n ≤ 8 then .ok else .badDigitCount
  | .dec _ k => if k ≤ 4 then .ok else .badByteCount
  | .setMode m => if m ≤ 8 then .ok else .modeRange
  | _ => .ok

/-- A byte run one command may put on the wire (30_encoding.md R77): a frame of 5 bytes ending in an opcode of the instance,
or PWR_ON's wake prefix and frame. -/
def isRun (c : Config) (r : List Byte) : Bool :=
  (r.length == 5 && c.opcodes.contains (r.getLastD 0)) ||
    r == List.replicate c.pwrOnWakeBytes 0x00 ++ [0x00, 0x00, 0x00, 0x00, c.opcPwrOn]

/-- The emitter and the outputs agree: idle with nothing loaded, or busy with a legal run, its first `emit_idx` bytes the
wire's last ones and an OK completion held (R24, R25, R113, R122 to R124). -/
abbrev State.EmitterOk (s : State) : Prop :=
  (s.busy = false → s.q = [] ∧ s.emitIdx = 0 ∧ s.held = none) ∧
  (s.busy = true →
    s.emitIdx < s.q.length ∧ isRun s.cfg s.q = true ∧ s.done = false ∧
    (s.held.map fun o => (o.status, o.result)) = some (0, 0) ∧ s.q.take s.emitIdx <:+ s.wire)

/-- The machine's invariant: the instance is well formed (R72), the emitter is consistent, and a completion shows a code of
R211. -/
abbrev State.Inv (s : State) : Prop :=
  s.cfg.WellFormed ∧ s.EmitterOk ∧ (s.done = true → s.outs.status.toNat ≤ 4)

/-- The rising edges of a run without reset. -/
def noReset (ps : List PortIn) : Bool := ps.all fun p => !p.rst

/-- Edges at which no command can be accepted: `rst` is high or nothing is presented. -/
def noCommand (ps : List PortIn) : Bool := ps.all fun p => p.rst || !p.cmdValid

/-- The bytes of the command in progress that are still to be transferred (R24). -/
def State.pending (s : State) : List Byte := s.q.drop s.emitIdx

/-- The four cached meter levels (48_host_interface.md R197) are the same. -/
abbrev sameLevels (h h' : HostSide) : Prop := h'.pwr = h.pwr ∧ h'.alc = h.alc ∧ h'.swr = h.swr ∧ h'.mod = h.mod

end Sys2Proof.Machine
end

