-- ==== Sys2Proof/Certificates/Slice0/Obligations.lean ====
section
/-! DEFINITION. The statements for the provers. Each docstring names the rule of spec/ it formalises. Parameter values are never
assumed: `s.cfg` is any instance, so a byte of a frame is stated as the parameter it is. -/

open Sys2Proof Sys2Proof.Machine

/-! ## Encoding -/

/-- 95_test_vectors.md, command words written out there: each decodes to the command its row names. -/
def Obligations.SpecWordsDecode : Prop :=
  decode 0x00800D97010 = .ok (.enc 14250000 8) ∧
  decode 0x0030000007B = .ok (.enc 123 3) ∧
  decode 0x01414250000 = .ok (.dec 0x14250000 4) ∧
  decode 0x02000000000 = .ok .pwrOn ∧
  decode 0x05000000000 = .ok .lockOff ∧
  decode 0x060029E9FB0 = .ok (.setFreq 43950000) ∧
  decode 0x08000000100 = .ok (.setMode 256) ∧
  decode 0x0CFFFFFFFFF = .ok .pttOn ∧
  decode 0x0E0FFF6D840 = .ok (.rptDir (-600000)) ∧
  decode 0x0F080000000 = .ok (.rptOffset (-2147483648)) ∧
  decode 0x12000003039 = .ok (.setCtcssFreq 12345) ∧
  decode 0x17012345678 = .ok (.readEeprom 0x5678) ∧
  decode 0x1F123456789 = .error (.reservedSelector 0x1F)

/-- R60: `CW = (sel << 36) | (aux << 32) | arg` as one number, and each field read back. -/
def Obligations.CommandWordFieldsReadBack : Prop :=
  ∀ (sel : BitVec 5) (aux : BitVec 4) (arg : Word),
    (packWord sel aux arg).toNat = sel.toNat * 2 ^ 36 + aux.toNat * 2 ^ 32 + arg.toNat ∧
    selOf (packWord sel aux arg) = sel ∧ auxOf (packWord sel aux arg) = aux ∧ argOf (packWord sel aux arg) = arg

/-- R60, R61, R63, R64, R78: no bit of an operand is dropped between the assembler's word and the decoder's command. -/
def Obligations.DecodeOfEncodeIsIdentity : Prop :=
  ∀ i : Instr, i.WellFormed → decode (encode i) = .ok i

/-- R60, R63, R64, R78: every command the decoder reads has operands that fit their fields. -/
def Obligations.DecodedCommandsAreWellFormed : Prop :=
  ∀ (cw : CmdWord) (i : Instr), decode cw = .ok i → i.WellFormed

/-- R63, R64 (decision D24): bits a command does not use have no effect. They do not change what the word decodes to; DEC keeps
the whole of `arg` in its operand, so of DEC the claim is about the run: of a legal count k only `arg[31:32-8k]` decides (its
hypothesis covers `sel` and `aux` too), and of a count over 4 nothing of `arg`. -/
def Obligations.UnusedBitsDoNotMatter : Prop :=
  ∀ cw cw' : CmdWord, cw.toNat / 2 ^ 36 = cw'.toNat / 2 ^ 36 →
    (2 ≤ cw.toNat / 2 ^ 36 → argOf cw = argOf cw' → decode cw = decode cw') ∧
    (cw.toNat / 2 ^ 36 = 0x17 → cw.toNat % 2 ^ 16 = cw'.toNat % 2 ^ 16 → decode cw = decode cw') ∧
    (cw.toNat / 2 ^ 36 ∈
        [0x02, 0x03, 0x04, 0x05, 0x07, 0x09, 0x0A, 0x0B, 0x0C, 0x0D, 0x10, 0x11, 0x13, 0x14, 0x15, 0x16] →
      decode cw = decode cw') ∧
    (∀ k, cw.toNat / 2 ^ 36 = 0x01 → k ≤ 4 → cw.toNat / 2 ^ 32 % 16 = k →
      cw.toNat / 2 ^ (32 - 8 * k) = cw'.toNat / 2 ^ (32 - 8 * k) → ∀ s, runWord cw s = runWord cw' s) ∧
    (cw.toNat / 2 ^ 36 = 0x01 → 4 < cw.toNat / 2 ^ 32 % 16 → cw.toNat / 2 ^ 32 = cw'.toNat / 2 ^ 32 →
      ∀ s, runWord cw s = runWord cw' s)

/-- R79 and the expansions of its table: BCD_CLEAR, and what it writes; SET_RPT_SHIFT. -/
def Obligations.PseudoInstructionsExpand : Prop :=
  buildCommands "BCD_CLEAR" [] = .ok [.enc 0 8] ∧
  (∀ s : State, ∃ t, exec (.enc 0 8) s = .next t ∧ t.bcd = ⟨0x00, 0x00, 0x00, 0x00⟩) ∧
  ∀ off : Int, buildCommands "SET_RPT_SHIFT" [.number off] = .ok [.rptDir off, .rptOffset off]

/-- R78: the assembler never lets through an operand that does not fit its field. -/
def Obligations.AssembledCommandsAreWellFormed : Prop :=
  ∀ (line : List Char) (is : List Instr), assembleLine line = .ok is → ∀ i ∈ is, i.WellFormed

/-! ## The codec -/

/-- R92: selector 0x00 is ENC of `uint32(arg)` and `aux`, and ENC of every digit count. Over 8 it is ignored. Up to 8 it
completes with OK and `bcd_out`, writes the pairs of the low n digits most significant first, puts an odd count's lowest digit
in the low nibble of byte (n-1)/2 with the high nibble kept or zeroed by policy, and leaves every other byte and every other
field as it was. -/
def Obligations.EncPacksLowDigits : Prop :=
  (∀ cw : CmdWord, cw.toNat / 2 ^ 36 = 0x00 → decode cw = .ok (.enc (cw.toNat % 2 ^ 32) (cw.toNat / 2 ^ 32 % 16))) ∧
  ∀ (v n : Nat) (s : State),
    (8 < n → exec (.enc v n) s = .next { s with outs := ⟨2, 0, 0⟩, done := true }) ∧
    (n ≤ 8 → ∃ r : BcdReg,
      exec (.enc v n) s = .next { s with bcd := r, outs := ⟨0, bcdOut r, 0⟩, done := true } ∧
      ∀ i, i < 4 → readBcd r i =
        if 2 * i + 2 ≤ n then decimalByte v (n - 2 - 2 * i)
        else if n = 2 * i + 1 then
          match s.cfg.oddNibblePolicy with
          | .literal => BitVec.ofNat 8 (16 * ((readBcd s.bcd i).toNat / 16) + v % 10)
          | .prezero => BitVec.ofNat 8 (v % 10)
        else readBcd s.bcd i)

/-- R94: "it encodes `v mod 10^n` and drops the higher digits without any indication. No status other than `OK` is
reported." -/
def Obligations.EncDropsHigherDigits : Prop :=
  ∀ (v n : Nat) (s : State), exec (.enc v n) s = exec (.enc (v % 10 ^ n) n) s ∧
    (n ≤ 8 → ∃ t, exec (.enc v n) s = .next t ∧ t.outs.status = 0)

/-- R93, R47: the same ENC again writes the same register, whatever the policy. -/
def Obligations.EncRepeatedWritesTheSame : Prop :=
  ∀ (v n : Nat) (s t : State), exec (.enc v n) s = .next t → exec (.enc v n) t = .next t

/-- R95, R96: selector 0x01 is DEC of `arg` and `aux`, and DEC of every byte count and every byte, legal BCD or not; the result
fits 32 bits. -/
def Obligations.DecFoldsLeadingBytes : Prop :=
  (∀ cw : CmdWord, cw.toNat / 2 ^ 36 = 0x01 →
    decode cw = .ok (.dec (BitVec.ofNat 32 cw.toNat) (cw.toNat / 2 ^ 32 % 16))) ∧
  ∀ (w : Word) (k : Nat) (s : State),
    (4 < k → exec (.dec w k) s = .next { s with outs := ⟨3, 0, 0⟩, done := true }) ∧
    (k ≤ 4 → ∃ r : Nat,
      r = (List.range k).foldl
        (fun r i => r * 100 + w.toNat / 2 ^ (24 - 8 * i) % 256 / 16 * 10 + w.toNat / 2 ^ (24 - 8 * i) % 16) 0 ∧
      r ≤ 166666665 ∧
      exec (.dec w k) s = .next { s with outs := ⟨0, BitVec.ofNat 32 r, 0⟩, done := true })

/-- R97: the round trip, at the two commands and at BCD_BYTES, for every even digit count. -/
def Obligations.BcdRoundTrip : Prop :=
  (∀ (v : Nat) (s : State), v ≤ 99999999 →
    ∃ t u, exec (.enc v 8) s = .next t ∧ exec (.dec t.outs.result 4) t = .next u ∧ u.outs.result.toNat = v) ∧
  (∀ (v n : Nat) (s : State), n ≤ 8 → n % 2 = 0 →
    ∃ t u, exec (.enc v n) s = .next t ∧ exec (.dec t.outs.result (n / 2)) t = .next u ∧
      u.outs.result.toNat = v % 10 ^ n) ∧
  (∀ v n : Nat, n ≤ 8 → n % 2 = 0 → decodeBytes (bcdBytes v n) = v % 10 ^ n)

/-- R98: what decoding gives back after an odd digit count. -/
def Obligations.OddDigitCountDecodes : Prop :=
  ∀ (v n : Nat) (s : State), n ≤ 8 → n % 2 = 1 →
    ∃ t u, exec (.enc v n) s = .next t ∧ exec (.dec t.outs.result ((n + 1) / 2)) t = .next u ∧
      u.outs.result.toNat =
        v / 10 % 10 ^ (n - 1) * 100 +
          (match s.cfg.oddNibblePolicy with
           | .literal => (readBcd s.bcd ((n - 1) / 2)).toNat / 16
           | .prezero => 0) * 10 + v % 10

/-! ## Framed commands: the selector and operand of each, and that it completes, with its whole next state -/

/-- R140, R141. -/
def Obligations.PowerCommandsEmit : Prop :=
  ∀ (cw : CmdWord) (s : State),
    (cw.toNat / 2 ^ 36 = 0x02 → decode cw = .ok .pwrOn) ∧
    exec .pwrOn s = .next { s with
      wire := s.wire ++ (List.replicate s.cfg.pwrOnWakeBytes 0x00 ++ [0x00, 0x00, 0x00, 0x00, s.cfg.opcPwrOn])
      outs := ⟨0, 0, 0⟩, done := true } ∧
    (cw.toNat / 2 ^ 36 = 0x03 → decode cw = .ok .pwrOff) ∧
    exec .pwrOff s = .next { s with
      wire := s.wire ++ [0x00, 0x00, 0x00, 0x00, s.cfg.opcPwrOff], outs := ⟨0, 0, 0⟩, done := true }

/-- R142, R143. -/
def Obligations.LockCommandsEmit : Prop :=
  ∀ (cw : CmdWord) (s : State),
    (cw.toNat / 2 ^ 36 = 0x04 → decode cw = .ok .lockOn) ∧
    exec .lockOn s = .next { s with
      wire := s.wire ++ [0x00, 0x00, 0x00, 0x00, s.cfg.opcLockOn], outs := ⟨0, 0, 1⟩, done := true } ∧
    (cw.toNat / 2 ^ 36 = 0x05 → decode cw = .ok .lockOff) ∧
    exec .lockOff s = .next { s with
      wire := s.wire ++ [0x00, 0x00, 0x00, 0x00, s.cfg.opcLockOff], outs := ⟨0, 0, 1⟩, done := true }

/-- R144: eight BCD digits, the higher ones dropped. -/
def Obligations.SetFreqEmitsEightDigits : Prop :=
  ∀ (cw : CmdWord) (f : Nat) (s : State),
    (cw.toNat / 2 ^ 36 = 0x06 → decode cw = .ok (.setFreq (cw.toNat % 2 ^ 32))) ∧
    exec (.setFreq f) s = .next { s with
      wire := s.wire ++ [decimalByte f 6, decimalByte f 4, decimalByte f 2, decimalByte f 0, s.cfg.opcFreqSet]
      outs := ⟨0, 0, 1⟩, done := true }

/-- R145. -/
def Obligations.ReadFreqModeEmits : Prop :=
  ∀ (cw : CmdWord) (s : State),
    (cw.toNat / 2 ^ 36 = 0x07 → decode cw = .ok .readFreqMode) ∧
    exec .readFreqMode s = .next { s with
      wire := s.wire ++ [0x00, 0x00, 0x00, 0x00, s.cfg.opcReadFreqMode], outs := ⟨0, 0, 5⟩, done := true }

/-- R146: a mode up to 8 is sent unchanged; any other is ignored on the full value. -/
def Obligations.SetModeChecksRange : Prop :=
  ∀ (cw : CmdWord) (m : Nat) (s : State),
    (cw.toNat / 2 ^ 36 = 0x08 → decode cw = .ok (.setMode (cw.toNat % 2 ^ 32))) ∧
    (m ≤ 8 → exec (.setMode m) s = .next { s with
      wire := s.wire ++ [BitVec.ofNat 8 m, 0x00, 0x00, 0x00, s.cfg.opcModeSet], outs := ⟨0, 0, 1⟩, done := true }) ∧
    (8 < m → exec (.setMode m) s = .next { s with outs := ⟨4, 0, 0⟩, done := true })

/-- R147 to R151. -/
def Obligations.SplitVfoPttCommandsEmit : Prop :=
  ∀ (cw : CmdWord) (s : State),
    (cw.toNat / 2 ^ 36 = 0x09 → decode cw = .ok .splitOn) ∧
    exec .splitOn s = .next { s with
      wire := s.wire ++ [0x00, 0x00, 0x00, 0x00, s.cfg.opcSplitOn], outs := ⟨0, 0, 1⟩, done := true } ∧
    (cw.toNat / 2 ^ 36 = 0x0A → decode cw = .ok .splitOff) ∧
    exec .splitOff s = .next { s with
      wire := s.wire ++ [0x00, 0x00, 0x00, 0x00, s.cfg.opcSplitOff], outs := ⟨0, 0, 1⟩, done := true } ∧
    (cw.toNat / 2 ^ 36 = 0x0B → decode cw = .ok .vfoSwap) ∧
    exec .vfoSwap s = .next { s with
      wire := s.wire ++ [0x00, 0x00, 0x00, 0x00, s.cfg.opcVfoSwap], outs := ⟨0, 0, 1⟩, done := true } ∧
    (cw.toNat / 2 ^ 36 = 0x0C → decode cw = .ok .pttOn) ∧
    exec .pttOn s = .next { s with
      wire := s.wire ++ [0x00, 0x00, 0x00, 0x00, s.cfg.opcPttOn], outs := ⟨0, 0, 1⟩, done := true } ∧
    (cw.toNat / 2 ^ 36 = 0x0D → decode cw = .ok .pttOff) ∧
    exec .pttOff s = .next { s with
      wire := s.wire ++ [0x00, 0x00, 0x00, 0x00, s.cfg.opcPttOff], outs := ⟨0, 0, 1⟩, done := true }

/-- R152: the sign selects the direction. -/
def Obligations.RptDirSelectsBySign : Prop :=
  ∀ (cw : CmdWord) (o : Int) (s : State),
    (cw.toNat / 2 ^ 36 = 0x0E → decode cw = .ok (.rptDir (signedArg cw))) ∧
    (0 < o → exec (.rptDir o) s = .next { s with
      wire := s.wire ++ [s.cfg.dirPlus, 0x00, 0x00, 0x00, s.cfg.opcRptShift], outs := ⟨0, 0, 1⟩, done := true }) ∧
    (o < 0 → exec (.rptDir o) s = .next { s with
      wire := s.wire ++ [s.cfg.dirMinus, 0x00, 0x00, 0x00, s.cfg.opcRptShift], outs := ⟨0, 0, 1⟩, done := true }) ∧
    (o = 0 → exec (.rptDir o) s = .next { s with
      wire := s.wire ++ [s.cfg.dirSimplex, 0x00, 0x00, 0x00, s.cfg.opcRptShift], outs := ⟨0, 0, 1⟩, done := true })

/-- R153: the magnitude, with no overflow at -2^31, in eight digits. -/
def Obligations.RptOffsetEmitsMagnitude : Prop :=
  ∀ (cw : CmdWord) (mag : Nat) (o : Int) (s : State),
    (cw.toNat / 2 ^ 36 = 0x0F → decode cw = .ok (.rptOffset (signedArg cw))) ∧
    (o = mag ∨ o = -mag → exec (.rptOffset o) s = .next { s with
      wire := s.wire ++ [decimalByte mag 6, decimalByte mag 4, decimalByte mag 2, decimalByte mag 0, s.cfg.opcRptOffset]
      outs := ⟨0, 0, 1⟩, done := true })

/-- R154, R155, R156. -/
def Obligations.CtcssCommandsEmit : Prop :=
  ∀ (cw : CmdWord) (t : Nat) (s : State),
    (cw.toNat / 2 ^ 36 = 0x10 → decode cw = .ok .ctcssEncOn) ∧
    exec .ctcssEncOn s = .next { s with
      wire := s.wire ++ [s.cfg.ctcssEncOnCode, 0x00, 0x00, 0x00, s.cfg.opcCtcssMode], outs := ⟨0, 0, 1⟩, done := true } ∧
    (cw.toNat / 2 ^ 36 = 0x11 → decode cw = .ok .ctcssEncOff) ∧
    exec .ctcssEncOff s = .next { s with
      wire := s.wire ++ [s.cfg.ctcssOffCode, 0x00, 0x00, 0x00, s.cfg.opcCtcssMode], outs := ⟨0, 0, 1⟩, done := true } ∧
    (cw.toNat / 2 ^ 36 = 0x12 → decode cw = .ok (.setCtcssFreq (cw.toNat % 2 ^ 32))) ∧
    exec (.setCtcssFreq t) s = .next { s with
      wire := s.wire ++ [decimalByte t 2, decimalByte t 0, 0x00, 0x00, s.cfg.opcCtcssFreq]
      outs := ⟨0, 0, 1⟩, done := true }

/-- R157, R158, R160. -/
def Obligations.StatusReadsEmit : Prop :=
  ∀ (cw : CmdWord) (s : State),
    (cw.toNat / 2 ^ 36 = 0x13 → decode cw = .ok .readTxMeters) ∧
    exec .readTxMeters s = .next { s with
      wire := s.wire ++ [0x00, 0x00, 0x00, 0x00, s.cfg.opcTxMeters], outs := ⟨0, 0, 1⟩, done := true } ∧
    (cw.toNat / 2 ^ 36 = 0x14 → decode cw = .ok .readTxState) ∧
    exec .readTxState s = .next { s with
      wire := s.wire ++ [0x00, 0x00, 0x00, 0x00, s.cfg.opcTxState], outs := ⟨0, 0, 1⟩, done := true } ∧
    (cw.toNat / 2 ^ 36 = 0x16 → decode cw = .ok .readRxStatus) ∧
    exec .readRxStatus s = .next { s with
      wire := s.wire ++ [0x00, 0x00, 0x00, 0x00, s.cfg.opcRxStatus], outs := ⟨0, 0, 1⟩, done := true }

/-- R159: an instance that supplies the opcode sends it; one that does not refuses the command and guesses no byte. -/
def Obligations.ReadTxState2NeedsItsOpcode : Prop :=
  ∀ (cw : CmdWord) (s : State),
    (cw.toNat / 2 ^ 36 = 0x15 → decode cw = .ok .readTxState2) ∧
    (∀ opc, s.cfg.opcTxState2 = some opc → exec .readTxState2 s = .next { s with
      wire := s.wire ++ [0x00, 0x00, 0x00, 0x00, opc], outs := ⟨0, 0, 1⟩, done := true }) ∧
    (s.cfg.opcTxState2 = none → exec .readTxState2 s = .refused .opcTxState2NotSupplied)

/-- R161: the low half of `arg` as the address, high byte first, and the instance's response length. -/
def Obligations.ReadEepromEmitsAddress : Prop :=
  ∀ (cw : CmdWord) (a : Nat) (s : State),
    (cw.toNat / 2 ^ 36 = 0x17 → decode cw = .ok (.readEeprom (cw.toNat % 2 ^ 16))) ∧
    exec (.readEeprom a) s = .next { s with
      wire := s.wire ++ [BitVec.ofNat 8 (a / 256), BitVec.ofNat 8 a, 0x00, 0x00, s.cfg.opcEepromRead]
      outs := ⟨0, 0, s.cfg.eepromRespLen⟩, done := true }

/-! ## Rules about every command -/

/-- R113: every frame is 5 bytes and ends in the command's opcode; only PWR_ON puts bytes before its frame. -/
def Obligations.EveryFrameEndsInItsOpcode : Prop :=
  ∀ (i : Instr) (s t : State), isCodec i = false → causeOf i = .ok → exec i s = .next t →
    ∃ pre frame, t.wire = s.wire ++ (pre ++ frame) ∧ frame.length = 5 ∧ frame.getLast? = opcodeOf s.cfg i ∧
      (if i = .pwrOn then pre = List.replicate s.cfg.pwrOnWakeBytes 0x00 else pre = [])

/-- R77: how many bytes each command puts on the wire. -/
def Obligations.WireBytesPerCommand : Prop :=
  ∀ (i : Instr) (s t : State), exec i s = .next t →
    t.wire.length = s.wire.length +
      (if isCodec i = true ∨ causeOf i ≠ .ok then 0 else if i = .pwrOn then s.cfg.pwrOnWakeBytes + 5 else 5)

/-- R119: a framed command neither reads nor writes `bcd_buf`, and what it emits is a function of the command and the
parameters, whatever came before it. -/
def Obligations.FramesDependOnCommandAndParametersOnly : Prop :=
  ∀ (i : Instr) (s s' t : State), isCodec i = false → s'.cfg = s.cfg → exec i s = .next t →
    t.bcd = s.bcd ∧ ∃ t' out, exec i s' = .next t' ∧ t'.bcd = s'.bcd ∧ t.wire = s.wire ++ out ∧ t'.wire = s'.wire ++ out

/-- R75 with the distinct bytes of R72: in a well-formed instance a reader of the last 5 bytes recovers which command sent them
and its data bytes. -/
def Obligations.FrameReaderRecoversCommand : Prop :=
  ∀ (i : Instr) (s t : State), s.cfg.WellFormed → exec i s = .next t → t.wire ≠ s.wire →
    isCodec i = false ∧ readFrame s.cfg (t.wire.drop (t.wire.length - 5)) = frameReading s.cfg i

/-- R211 with R62, R118 and R212: which words are ignored, with which code and no other effect; every other word that
completes reports OK. The fields of the word are written as numbers. -/
def Obligations.CompletionCodes : Prop :=
  ∀ (cw : CmdWord) (s : State),
    (24 ≤ cw.toNat / 2 ^ 36 → runWord cw s = .next { s with outs := ⟨1, 0, 0⟩, done := true }) ∧
    (cw.toNat / 2 ^ 36 = 0 → 8 < cw.toNat / 2 ^ 32 % 16 → runWord cw s = .next { s with outs := ⟨2, 0, 0⟩, done := true }) ∧
    (cw.toNat / 2 ^ 36 = 1 → 4 < cw.toNat / 2 ^ 32 % 16 → runWord cw s = .next { s with outs := ⟨3, 0, 0⟩, done := true }) ∧
    (cw.toNat / 2 ^ 36 = 8 → 8 < cw.toNat % 2 ^ 32 → runWord cw s = .next { s with outs := ⟨4, 0, 0⟩, done := true }) ∧
    (∀ t, runWord cw s = .next t →
      ¬(24 ≤ cw.toNat / 2 ^ 36) → ¬(cw.toNat / 2 ^ 36 = 0 ∧ 8 < cw.toNat / 2 ^ 32 % 16) →
      ¬(cw.toNat / 2 ^ 36 = 1 ∧ 4 < cw.toNat / 2 ^ 32 % 16) → ¬(cw.toNat / 2 ^ 36 = 8 ∧ 8 < cw.toNat % 2 ^ 32) →
      t.outs.status = 0)

/-- R210 (with R159's condition): in an instance that supplies OPC_TX_STATE2 every one of the 2^41 command words completes, and
the block accepts the next command as before: the emitter and the parameters are untouched. -/
def Obligations.EveryCommandWordCompletes : Prop :=
  ∀ (cw : CmdWord) (s : State), s.cfg.opcTxState2 ≠ none →
    ∃ t, runWord cw s = .next t ∧ t.done = true ∧ t.busy = s.busy ∧ t.q = s.q ∧ t.emitIdx = s.emitIdx ∧ t.cfg = s.cfg

/-- R49, R48, R46: over a list of command words the runs stand on the wire in acceptance order, contiguous, each one what that
word emits from any state of the instance. -/
def Obligations.WireHoldsRunsInAcceptanceOrder : Prop :=
  ∀ (cws : List CmdWord) (s t : State), runWords cws s = .next t →
    ∃ outs : List (List Byte), outs.length = cws.length ∧ t.wire = s.wire ++ outs.flatten ∧
      ∀ e ∈ cws.zip outs, ∀ u : State, u.cfg = s.cfg → ∃ v, runWord e.1 u = .next v ∧ v.wire = u.wire ++ e.2

/-! ## The step -/

/-- R117, R122: when a command word is presented to an idle block and decodes to a command, the step is that command's
meaning, the word consumed; and so is the step of the word the host places. That a step takes the head of `State.inputs`, and
that `withFetchWord` places its word on an emitter made idle, is the model's choice (log 2). -/
def Obligations.StepRunsDecodedCommand : Prop :=
  (∀ (s : State) (cw : CmdWord) (rest : List Input) (i : Instr),
    s.busy = false → s.inputs = .command cw :: rest → decode cw = .ok i → step s = exec i { s with inputs := rest }) ∧
  (∀ (s : State) (w : Nat) (i : Instr), w < 2 ^ 41 → decode (BitVec.ofNat 41 w) = .ok i →
    step (s.withFetchWord 41 w) = exec i { s with busy := false, q := [], emitIdx := 0, held := none })

/-- R125, R123: a command presented while another is in progress waits; the transport takes the next byte (log 13, the model's
choice of what a waiting transaction does). -/
def Obligations.PresentedCommandWaitsWhileBusy : Prop :=
  ∀ (s : State) (cw : CmdWord) (rest : List Input), s.busy = true → s.inputs = .command cw :: rest →
    s.emitIdx < s.q.length →
    ∃ t b, step s = .next t ∧ s.q[s.emitIdx]? = some b ∧ t.wire = s.wire ++ [b] ∧ t.inputs = s.inputs ∧ t.bcd = s.bcd

/-- R41, R48, R113: a step leaves the wire as it is, or appends the byte at `emit_idx` of a busy emitter, or appends one
command's legal run from a block that is not busy. -/
def Obligations.StepAppendsOnlyLegalBytes : Prop :=
  ∀ s t : State, step s = .next t →
    t.wire = s.wire ∨
    (s.busy = true ∧ ∃ b, s.q[s.emitIdx]? = some b ∧ t.wire = s.wire ++ [b]) ∨
    (s.busy = false ∧ ∃ run, isRun s.cfg run = true ∧ t.wire = s.wire ++ run)

/-- R21: "Written by: only ENC". A step that changes `bcd_buf` accepted an ENC of 1 to 8 digits. -/
def Obligations.OnlyEncWritesBcdBuf : Prop :=
  ∀ s t : State, step s = .next t → t.bcd ≠ s.bcd →
    s.busy = false ∧ ∃ v n, 1 ≤ n ∧ n ≤ 8 ∧
      ((∃ cw rest, s.inputs = .command cw :: rest ∧ decode cw = .ok (.enc v n)) ∨
       (∃ p rest, s.inputs = .edge p :: rest ∧ accepts p s = true ∧ decode p.cmdWord = .ok (.enc v n)))

/-- R27: "Each parameter is a constant for the life of a model instance." -/
def Obligations.ParametersNeverChange : Prop :=
  ∀ s t : State, step s = .next t → t.cfg = s.cfg

/-- R210, R159: a step never faults, and refuses only READ_TX_STATE2 in an instance without its opcode. -/
def Obligations.OnlyTxState2IsRefused : Prop :=
  ∀ (s : State), (∀ f, step s ≠ .fault f) ∧
    ∀ r, step s = .refused r → r = .opcTxState2NotSupplied ∧ s.cfg.opcTxState2 = none ∧
      ((∃ cw rest, s.inputs = .command cw :: rest ∧ decode cw = .ok .readTxState2) ∨
       (∃ p rest, s.inputs = .edge p :: rest ∧ decode p.cmdWord = .ok .readTxState2))

/-- Every step keeps the invariant: the instance stays well formed, the emitter is idle and empty or holds a legal run whose
first `emit_idx` bytes are the last ones on the wire, and a completion shows a code of R211. That an idle emitter is empty is
the model's reading of R25 (log 8), and `held` is the model's own field (log 10): no rule of the spec says either. -/
def Obligations.StepKeepsInvariant : Prop :=
  ∀ s t : State, s.Inv → step s = .next t → t.Inv

/-- The state after reset meets the invariant. It rests on the model's choice of the default parameters and of the free
OPC_TX_STATE2 byte (logs 6, 7). -/
def Obligations.ResetMeetsInvariant : Prop := State.reset.Inv

/-! ## Ports and reset -/

/-- R22, R44: `bcd_out` as one number, byte 0 in the most significant position, and the same word as ENC's `result`. -/
def Obligations.BcdOutShowsRegister : Prop :=
  ∀ (p : PortIn) (s : State),
    (portOut p s).bcdOut.toNat =
      s.bcd.b0.toNat * 2 ^ 24 + s.bcd.b1.toNat * 2 ^ 16 + s.bcd.b2.toNat * 2 ^ 8 + s.bcd.b3.toNat ∧
    ∀ v n : Nat, n ≤ 8 → ∃ t, exec (.enc v n) s = .next t ∧ t.outs.result = (portOut p t).bcdOut

/-- R122: at an accepting edge the block performs the step of R117 and loads what it emits; `busy` is set exactly when there
are bytes. Without bytes the command completes at acceptance (R124). -/
def Obligations.AcceptanceLoadsEmitter : Prop :=
  ∀ (p : PortIn) (s t : State), s.Idle → p.rst = false → p.cmdValid = true → runWord p.cmdWord s = .next t →
    ∃ out u, t.wire = s.wire ++ out ∧ clockEdge p s = .next u ∧ u.wire = s.wire ∧ u.bcd = t.bcd ∧ u.q = out ∧
      u.emitIdx = 0 ∧ u.busy = !out.isEmpty ∧ u.done = out.isEmpty ∧ (out = [] → u.outs = t.outs)

/-- R123: what the ports show while the emitter is busy or idle, what a transfer does, and that a stall changes neither the
wire nor the byte shown. -/
def Obligations.ByteTransfer : Prop :=
  ∀ (p : PortIn) (s : State), p.rst = false →
    (s.busy = false → (portOut p s).outValid = false) ∧
    (s.busy = true → s.emitIdx < s.q.length →
      (portOut p s).outValid = true ∧ s.q[s.emitIdx]? = some (portOut p s).outByte ∧
      (p.outReady = true → ∃ t, clockEdge p s = .next t ∧ t.wire = s.wire ++ [(portOut p s).outByte] ∧ t.bcd = s.bcd ∧
        (s.emitIdx + 1 < s.q.length → t.busy = true ∧ t.q = s.q ∧ t.emitIdx = s.emitIdx + 1)) ∧
      (p.outReady = false → ∃ t, clockEdge p s = .next t ∧ t.wire = s.wire ∧ t.busy = true ∧
        (portOut p t).outByte = (portOut p s).outByte))

/-- R123, R124: the last transfer completes the command: `busy` falls, `done` rises and the outputs are the command's. That it
empties q and sets `emit_idx` to 0 is the model's reading (log 8: R25 says only that `emit_idx` reaches len(q)), and that the
outputs wait in `held` is the model's choice (log 10). -/
def Obligations.LastTransferCompletes : Prop :=
  ∀ (p : PortIn) (s : State) (b : Byte) (o : Outputs), p.rst = false → p.outReady = true → s.busy = true →
    s.emitIdx + 1 = s.q.length → s.q[s.emitIdx]? = some b → s.held = some o →
    clockEdge p s = .next { s with
      wire := s.wire ++ [b], busy := false, q := [], emitIdx := 0, held := none, outs := o, done := true }

/-- R121, R124: `done` is one cycle long: after an edge it is high only if that edge completed a command, by taking its last
byte, or by accepting a command that emits none. -/
def Obligations.DoneLastsOneEdge : Prop :=
  ∀ (p : PortIn) (s t : State), clockEdge p s = .next t → t.done = true →
    p.rst = false ∧ ((s.busy = true ∧ p.outReady = true ∧ s.q.length ≤ s.emitIdx + 1) ∨
      (accepts p s = true ∧ ∃ u, runWord p.cmdWord s = .next u ∧ u.wire = s.wire))

/-- R124: the outputs are held from one acceptance to the next: an edge that neither resets, accepts nor transfers leaves
them. -/
def Obligations.OutputsHeldUntilNextAcceptance : Prop :=
  ∀ (p : PortIn) (s t : State), clockEdge p s = .next t → p.rst = false → s.busy = false → p.cmdValid = false →
    t.outs = s.outs ∧ t.bcd = s.bcd ∧ t.wire = s.wire

/-- R125: while a command is in progress `cmd_ready` is 0 and what is presented has no effect. -/
def Obligations.BusyBlockAcceptsNothing : Prop :=
  ∀ (p : PortIn) (s : State) (v : Bool) (cw : CmdWord), s.busy = true →
    (portOut p s).cmdReady = false ∧ clockEdge { p with cmdValid := v, cmdWord := cw } s = clockEdge p s

/-- R230, R234: while `rst` is 1 the ports are quiet; the edge clears the emitter, transfers nothing, keeps the wire, and the
block is ready once `rst` is 0. That the edge keeps `bcd_buf` is the model's reading of D28 and vector V5 against R231 and R232,
which call it unspecified after reset (log 9, unsafe). -/
def Obligations.ResetEdgeClearsEmitter : Prop :=
  ∀ (p p' : PortIn) (s : State), p.rst = true → p'.rst = false →
    (portOut p s).cmdReady = false ∧ (portOut p s).outValid = false ∧ (portOut p s).done = false ∧
    ∃ t, clockEdge p s = .next t ∧ t.busy = false ∧ t.q = [] ∧ t.emitIdx = 0 ∧ t.done = false ∧
      t.wire = s.wire ∧ t.bcd = s.bcd ∧ t.cfg = s.cfg ∧ t.inputs = s.inputs ∧ (portOut p' t).cmdReady = true ∧
      (portOut p' t).outValid = false

/-- R231, R41: the state after reset, the elements the spec gives a value. -/
def Obligations.ResetState : Prop :=
  State.reset.busy = false ∧ State.reset.q = [] ∧ State.reset.emitIdx = 0 ∧ State.reset.done = false ∧
  State.reset.wire = [] ∧
  ∀ p : PortIn, p.rst = false →
    (portOut p State.reset).cmdReady = true ∧ (portOut p State.reset).outValid = false ∧
    (portOut p State.reset).done = false ∧ (portOut p State.reset).bcdOut = bcdOut State.reset.bcd

/-- R126: any run of the ports from an idle block with no reset after the first acceptance agrees with the transactions of the
accepted words: the wire with the bytes still pending, `bcd_buf`, and at rest the whole wire (R123) and the outputs (R120, R124).
That the words run from s although `pre` may hold resets rests on log 9 (`bcd_buf` survives `rst`, the model's reading). -/
def Obligations.PortsAgreeWithTransactions : Prop :=
  ∀ (pre post : List PortIn) (s t : State), s.Idle → noCommand pre = true → noReset post = true →
    runEdges (pre ++ post) s = .next t →
    ∃ u, runWords (acceptedWords (pre ++ post) s) s = .next u ∧ u.wire = t.wire ++ t.pending ∧ u.bcd = t.bcd ∧
      (t.busy = false → u.wire = t.wire ∧ (acceptedWords (pre ++ post) s ≠ [] → u.outs = t.outs))

/-- R124, R243: once accepted, a command whose bytes are taken at every edge completes, in the state its transaction gives (but
for the model's own counter of free draws). That it takes exactly as many edges as it has bytes is the model's choice (log 11):
R245 leaves the number open but for that lower bound. -/
def Obligations.AcceptedCommandDrains : Prop :=
  ∀ (p r : PortIn) (s t : State) (out : List Byte), s.Idle → p.rst = false → p.cmdValid = true → r.rst = false →
    r.outReady = true → runWord p.cmdWord s = .next t → t.wire = s.wire ++ out →
    ∃ d, runEdges (p :: List.replicate out.length { r with cmdValid := false }) s = .next { t with draws := d }

/-! ## The host side. The bytes that come back are the model's data: one list for each timed read (log 17, a design choice),
behind those left unread. Statements about answers rest on it. -/

/-- R180, R181, R236: `begin` opens the transport; over an open one exactly the bytes a command puts on the wire are sent, in
order; over one never opened none is, and the block is unaffected. That a read times out over a transport never opened is the
model's reading of R236 (log 17). The clauses about `flush`, which R180 says only discards or settles pending I/O, are the model's
choice (log 17): it discards the unread bytes, and what was sent stays sent (with R41). -/
def Obligations.TransportCarriesEmittedBytes : Prop :=
  (∀ (baud : Nat) (h : HostSide), (h.beginAt baud).transport.isOpen = true ∧ (h.beginAt baud).block = h.block ∧
    (h.beginAt baud).transport.sent = h.transport.sent) ∧
  (∀ (i : Instr) (h h' : HostSide), issue i h = .ok h' →
    exec i h.block = .next h'.block ∧ ∃ out, h'.block.wire = h.block.wire ++ out ∧
      h'.transport = (if h.transport.isOpen then { h.transport with sent := h.transport.sent ++ out } else h.transport)) ∧
  ∀ t : Transport, t.flush.sent = t.sent ∧ t.flush.bytesAvailable = 0 ∧
    (t.isOpen = false → t.bytesAvailable = 0 → t.readOneByte = (none, t))

/-- R180 ("the channel delivers bytes in order with no corruption"), R184, R185: what the timed reads give, with what is left
unread and what is still to come, is what was unread and to come before, in order. A response is read byte by byte up to its
length or the first timeout (log 29, the model's choice); a timed-out READ_FREQ_MODE read takes no byte. -/
def Obligations.ReadsTakeTheStreamInOrder : Prop :=
  (∀ (n : Nat) (t t' : Transport) (rs : List (Option Byte)), t.readBytes n = (rs, t') →
    rs.length ≤ n ∧ (rs.length < n → rs.getLast? = some none) ∧ (∀ x ∈ rs.dropLast, x ≠ none) ∧
    rs.filterMap id ++ (t'.unread ++ t'.arrivals.flatten) = t.unread ++ t.arrivals.flatten ∧ t'.sent = t.sent) ∧
  (∀ (t t' : Transport) (w : Word) (m : Byte), t.readFrequencyAndMode = (some (w, m), t') →
    wordBytes w ++ [m] ++ (t'.unread ++ t'.arrivals.flatten) = t.unread ++ t.arrivals.flatten ∧ t'.sent = t.sent) ∧
  ∀ t t' : Transport, t.readFrequencyAndMode = (none, t') →
    t'.unread ++ t'.arrivals.flatten = t.unread ++ t.arrivals.flatten ∧ t'.unread.length < 5 ∧ t'.sent = t.sent

/-- R188: the two mirrored comparisons with 240, and the timeout read as the sentinel 0 (R184). The acknowledgement is the first
byte of what is unread and what arrives (log 17), and is read after the frame is sent. -/
def Obligations.LockAcknowledgement : Prop :=
  ∀ (on : Bool) (h : HostSide) (a : List Byte) (more : List (List Byte)), h.transport.isOpen = true →
    h.transport.arrivals = a :: more →
    ∃ r h', setLock on h = .ok (r, h') ∧ h'.wasLocked = r ∧
      (∀ b rest, h.transport.unread ++ a = b :: rest → r = if on then decide (b.toNat = 240) else decide (b.toNat ≠ 240)) ∧
      (h.transport.unread ++ a = [] → r = !on) ∧
      h'.transport.sent = h.transport.sent ++
        [0x00, 0x00, 0x00, 0x00, if on then h.block.cfg.opcLockOn else h.block.cfg.opcLockOff] ∧
      h'.transport.unread = (h.transport.unread ++ a).tail ∧ h'.transport.arrivals = more

/-- R185 to R187: with five bytes or more available, the frequency of a READ_FREQ_MODE answer is DEC of its first four bytes,
and the mode byte comes with its label; with fewer the read times out. The bytes available are log 17's, the two fields of the
cache `mode` log 30's, and that a timeout leaves the caches is log 31's. -/
def Obligations.FrequencyAnswerIsUnpacked : Prop :=
  ∀ (h : HostSide) (a q : List Byte) (more : List (List Byte)), h.transport.isOpen = true →
    h.transport.arrivals = a :: more → q = h.transport.unread ++ a →
    ∃ h' r, readFrequency h = .ok (r, h') ∧ h'.transport.arrivals = more ∧
      h'.block.wire = h.block.wire ++ [0x00, 0x00, 0x00, 0x00, h.block.cfg.opcReadFreqMode] ∧
      (5 ≤ q.length → r = some ⟨decodeBytes (q.take 4), q.getD 4 0, modeLabel h.hcfg (q.getD 4 0)⟩ ∧
        h'.freq = decodeBytes (q.take 4) ∧ h'.mode = (q.getD 4 0, modeLabel h.hcfg (q.getD 4 0)) ∧
        h'.transport.unread = q.drop 5) ∧
      (q.length < 5 → r = none ∧ h'.freq = h.freq ∧ h'.mode = h.mode ∧ h'.transport.unread = q)

/-- R190: the TX meters, both readings of the first byte, which of them reads a second, and the caches. That a read over no byte
is a timeout is R184 with decision D31, over log 17's bytes; that a timeout leaves the caches, and "not transmitting" the four
levels, is log 31's. -/
def Obligations.TxMetersAnswer : Prop :=
  ∀ (h : HostSide) (a0 a1 : List Byte) (more : List (List Byte)), h.transport.isOpen = true →
    h.transport.arrivals = a0 :: a1 :: more →
    ∃ h' r, readMeters h = .ok (r, h') ∧
      h'.block.wire = h.block.wire ++ [0x00, 0x00, 0x00, 0x00, h.block.cfg.opcTxMeters] ∧
      (h.transport.unread ++ a0 = [] → r = none ∧ h'.tx = h.tx ∧ sameLevels h h' ∧
        h'.transport.unread = [] ∧ h'.transport.arrivals = a1 :: more) ∧
      ∀ s0 rest, h.transport.unread ++ a0 = s0 :: rest →
        ((s0.toNat = 0 ∨ s0.toNat = 255) → r = some .notTransmitting ∧ h'.tx = false ∧ sameLevels h h' ∧
          h'.transport.unread = rest ∧ h'.transport.arrivals = a1 :: more) ∧
        (s0.toNat ≠ 0 → s0.toNat ≠ 255 →
          h'.transport.arrivals = more ∧
          (rest ++ a1 = [] → r = none ∧ h'.tx = h.tx ∧ sameLevels h h' ∧ h'.transport.unread = []) ∧
          ∀ s1 rest', rest ++ a1 = s1 :: rest' →
            h'.transport.unread = rest' ∧ r = some (.levels h'.pwr h'.alc h'.swr h'.mod) ∧ h'.tx = true ∧
            (h.hcfg.meterMap = { pwr := .hiS0, alc := .loS0, swr := .hiS1, mod := .loS1 } →
              h'.pwr.toNat = s0.toNat / 16 ∧ h'.alc.toNat = s0.toNat % 16 ∧ h'.swr.toNat = s1.toNat / 16 ∧
              h'.mod.toNat = s1.toNat % 16))

/-- R187, R192: in a well-formed host each code gets its label; an unknown byte gets the empty label or S0. -/
def Obligations.LabelsOfAnswers : Prop :=
  ∀ (c : HostConfig) (b : Byte), c.wf = true →
    (∀ m, (b, m) ∈ c.modeCodes → modeLabel c b = modeText m) ∧
    (b ∉ c.modeCodes.map Prod.fst → modeLabel c b = "") ∧
    (∀ i, i < 16 → c.smeterCodes[i]? = some b → some (sMeterLabel c b) = sMeterLabels[i]?) ∧
    (b ∉ c.smeterCodes → sMeterLabel c b = "S0")

/-- R195, R182, R239: the repeater sequence. RPT_DIR's acknowledgement is read in a state where its frame alone has been sent,
and RPT_OFFSET is presented from the state after that read. The bytes the two reads find are log 17's: q1 = what is unread with
what arrives first, then what q1 leaves with what arrives second. -/
def Obligations.RepeaterSequence : Prop :=
  ∀ (off : Int) (h : HostSide) (a1 a2 q1 q2 : List Byte) (more : List (List Byte)), h.transport.isOpen = true →
    h.transport.arrivals = a1 :: a2 :: more → q1 = h.transport.unread ++ a1 → q2 = q1.tail ++ a2 →
    let direction := [if 0 < off then h.block.cfg.dirPlus else if off < 0 then h.block.cfg.dirMinus else h.block.cfg.dirSimplex,
      0x00, 0x00, 0x00, h.block.cfg.opcRptShift]
    let offset := [decimalByte off.natAbs 6, decimalByte off.natAbs 4, decimalByte off.natAbs 2, decimalByte off.natAbs 0,
      h.block.cfg.opcRptOffset]
    ∃ h1 h2, acknowledged (.rptDir off) h = .ok (q1.head?, h1) ∧ h1.block.wire = h.block.wire ++ direction ∧
      h1.transport.sent = h.transport.sent ++ direction ∧ h1.transport.unread = q1.tail ∧
      h1.transport.arrivals = a2 :: more ∧
      acknowledged (.rptOffset off) h1 = .ok (q2.head?, h2) ∧ setRepeaterShift off h = .ok ((q1.head?, q2.head?), h2) ∧
      h2.block.wire = h.block.wire ++ (direction ++ offset) ∧
      h2.transport.sent = h.transport.sent ++ (direction ++ offset) ∧ h2.transport.unread = q2.tail ∧
      h2.transport.arrivals = more

/-- R194: the verified set succeeds exactly when one of at most two read-backs is f; a timeout is a mismatch; the second cycle
runs only after a mismatch and no third ever does. For f over 99999999 a non-BCD answer may match: there R194's derived sentence
is not followed (log 26, the model's reading). That a timeout of SET_FREQ's ack is no mismatch is the model's choice (log 32). The
bytes p1 and p2 the two READ_FREQ_MODE reads find are log 17's. -/
def Obligations.VerifiedSetRunsAtMostTwice : Prop :=
  ∀ (f : Nat) (h : HostSide) (a1 r1 a2 r2 p1 p2 : List Byte) (more : List (List Byte)), h.transport.isOpen = true →
    h.transport.arrivals = a1 :: r1 :: a2 :: r2 :: more → p1 = (h.transport.unread ++ a1).tail ++ r1 →
    p2 = ((if 5 ≤ p1.length then p1.drop 5 else p1) ++ a2).tail ++ r2 →
    let matches1 := 5 ≤ p1.length ∧ decodeBytes (p1.take 4) = f
    let matches2 := 5 ≤ p2.length ∧ decodeBytes (p2.take 4) = f
    let cycle := [decimalByte f 6, decimalByte f 4, decimalByte f 2, decimalByte f 0, h.block.cfg.opcFreqSet,
      0x00, 0x00, 0x00, 0x00, h.block.cfg.opcReadFreqMode]
    (matches1 → ∃ h', verifiedSetFreq f h = .ok (true, h') ∧ h'.block.wire = h.block.wire ++ cycle ∧
      h'.transport.arrivals = a2 :: r2 :: more) ∧
    (¬matches1 → ∃ h', verifiedSetFreq f h = .ok (decide matches2, h') ∧
      h'.block.wire = h.block.wire ++ (cycle ++ cycle) ∧ h'.transport.arrivals = more)
end

