-- ==== Sys2Proof/Laws/Decode.lean ====
section
/-! SUPPORT. The command word's fields in and out (30_encoding.md R60), and what the decoder answers for each selector. -/

namespace Sys2Proof

/-- Or of a multiple of 2^k and a number below 2^k is their sum. -/
theorem or_eq_add_of_dvd {a b k : Nat} (ha : 2 ^ k ∣ a) (hb : b < 2 ^ k) : a ||| b = a + b := by
  obtain ⟨c, rfl⟩ := ha
  rw [Nat.mul_comm, ← Nat.shiftLeft_eq, Nat.shiftLeft_add_eq_or_of_lt hb]

/-- A small value set into a wider word and shifted within it is the product. -/
theorem setWidth_shiftLeft_toNat {n : Nat} (b : BitVec n) (w k : Nat) (h : n + k ≤ w) :
    ((b.setWidth w) <<< k).toNat = b.toNat * 2 ^ k := by
  have hb := b.isLt
  have hk : b.toNat * 2 ^ k < 2 ^ w :=
    calc b.toNat * 2 ^ k < 2 ^ n * 2 ^ k := Nat.mul_lt_mul_of_pos_right hb (Nat.two_pow_pos k)
      _ = 2 ^ (n + k) := (Nat.pow_add 2 n k).symm
      _ ≤ 2 ^ w := Nat.pow_le_pow_right (by decide) h
  have hw : b.toNat < 2 ^ w := Nat.lt_of_le_of_lt (Nat.le_mul_of_pos_right _ (Nat.two_pow_pos k)) hk
  rw [BitVec.toNat_shiftLeft, BitVec.toNat_setWidth, Nat.shiftLeft_eq, Nat.mod_eq_of_lt hw, Nat.mod_eq_of_lt hk]

theorem packWord_toNat (sel : BitVec 5) (aux : BitVec 4) (arg : Word) :
    (packWord sel aux arg).toNat = sel.toNat * 2 ^ 36 + aux.toNat * 2 ^ 32 + arg.toNat := by
  have h0 := sel.isLt
  have h1 := aux.isLt
  have h2 := arg.isLt
  have e2 : (arg.setWidth 41).toNat = arg.toNat := by
    rw [BitVec.toNat_setWidth]
    omega
  have s1 : sel.toNat * 2 ^ 36 ||| aux.toNat * 2 ^ 32 = sel.toNat * 2 ^ 36 + aux.toNat * 2 ^ 32 :=
    or_eq_add_of_dvd (k := 36) (by omega) (by omega)
  rw [packWord, BitVec.toNat_or, BitVec.toNat_or, setWidth_shiftLeft_toNat _ _ _ (by decide),
    setWidth_shiftLeft_toNat _ _ _ (by decide), e2, s1]
  exact or_eq_add_of_dvd (k := 32) (by omega) (by omega)

theorem selOf_toNat (cw : CmdWord) : (selOf cw).toNat = cw.toNat / 2 ^ 36 := by
  have := cw.isLt
  simp only [selOf, BitVec.extractLsb'_toNat, Nat.shiftRight_eq_div_pow]
  omega

theorem auxOf_toNat (cw : CmdWord) : (auxOf cw).toNat = cw.toNat / 2 ^ 32 % 16 := by
  simp only [auxOf, BitVec.extractLsb'_toNat, Nat.shiftRight_eq_div_pow]

theorem argOf_toNat (cw : CmdWord) : (argOf cw).toNat = cw.toNat % 2 ^ 32 := by
  simp only [argOf, BitVec.extractLsb'_toNat, Nat.shiftRight_eq_div_pow, Nat.pow_zero, Nat.div_one]

@[simp] theorem selOf_packWord (sel : BitVec 5) (aux : BitVec 4) (arg : Word) : selOf (packWord sel aux arg) = sel := by
  have := aux.isLt
  have := arg.isLt
  apply BitVec.eq_of_toNat_eq
  rw [selOf_toNat, packWord_toNat]
  omega

@[simp] theorem auxOf_packWord (sel : BitVec 5) (aux : BitVec 4) (arg : Word) : auxOf (packWord sel aux arg) = aux := by
  have := aux.isLt
  have := arg.isLt
  apply BitVec.eq_of_toNat_eq
  rw [auxOf_toNat, packWord_toNat]
  omega

@[simp] theorem argOf_packWord (sel : BitVec 5) (aux : BitVec 4) (arg : Word) : argOf (packWord sel aux arg) = arg := by
  have := arg.isLt
  apply BitVec.eq_of_toNat_eq
  rw [argOf_toNat, packWord_toNat]
  omega

/-- The decoder's answer for a packed word is decided by its selector. -/
theorem decode_packWord_reserved (sel : BitVec 5) (aux : BitVec 4) (arg : Word) (h : 24 ≤ sel.toNat) :
    decode (packWord sel aux arg) = .error (.reservedSelector sel) := by
  have hlt := sel.isLt
  unfold decode
  rw [selOf_packWord]
  split <;> first | rfl | omega

/-- A word decodes to a command exactly when its selector is below 0x18 (R61, R62). -/
theorem decode_ok_iff (cw : CmdWord) : (∃ i, decode cw = .ok i) ↔ (selOf cw).toNat < 24 := by
  have hlt := (selOf cw).isLt
  constructor
  · rintro ⟨i, hi⟩
    by_contra hge
    unfold decode at hi
    split at hi <;> first | omega | cases hi
  · intro h
    unfold decode
    split
    all_goals
      first
      | exact ⟨_, rfl⟩
      | simp only [imp_false] at *
        omega

/-- The operand readings of R63 and R64 as numbers. -/
theorem uint32_argOf (cw : CmdWord) : uint32 (argOf cw) = cw.toNat % 2 ^ 32 := argOf_toNat cw

theorem argOf_eq_ofNat (cw : CmdWord) : argOf cw = BitVec.ofNat 32 cw.toNat := by
  apply BitVec.eq_of_toNat_eq
  rw [argOf_toNat, BitVec.toNat_ofNat]

theorem addrOf_toNat (cw : CmdWord) : ((argOf cw).extractLsb' 0 16).toNat = cw.toNat % 2 ^ 16 := by
  rw [BitVec.extractLsb'_toNat, argOf_toNat]
  simp only [Nat.shiftRight_zero]
  omega

theorem sint32_argOf (cw : CmdWord) :
    sint32 (argOf cw) =
      if cw.toNat % 2 ^ 32 < 2 ^ 31 then ((cw.toNat % 2 ^ 32 : Nat) : Int) else (cw.toNat % 2 ^ 32 : Nat) - 2 ^ 32 := by
  rw [sint32, BitVec.toInt_eq_toNat_cond, argOf_toNat]
  split <;> split <;> omega

@[simp] theorem sint32_ofInt (o : Int) (h : fitsSigned o = true) : sint32 (BitVec.ofInt 32 o) = o := by
  simp only [fitsSigned, Bool.and_eq_true, decide_eq_true_eq] at h
  rw [sint32, BitVec.toInt_ofInt]
  simp only [Int.bmod]
  omega

@[simp] theorem uint32_ofNat (v : Nat) (h : fitsArg v = true) : uint32 (BitVec.ofNat 32 v) = v := by
  simp only [fitsArg, decide_eq_true_eq] at h
  rw [uint32, BitVec.toNat_ofNat, Nat.mod_eq_of_lt h]

@[simp] theorem auxField_ofNat (n : Nat) (h : fitsAux n = true) : (BitVec.ofNat 4 n).toNat = n := by
  simp only [fitsAux, decide_eq_true_eq] at h
  rw [BitVec.toNat_ofNat]
  omega

@[simp] theorem addrField_ofNat (a : Nat) (h : fitsAddr a = true) :
    ((BitVec.ofNat 32 a).extractLsb' 0 16).toNat = a := by
  simp only [fitsAddr, decide_eq_true_eq] at h
  rw [BitVec.extractLsb'_toNat, BitVec.toNat_ofNat]
  simp only [Nat.shiftRight_zero]
  omega

end Sys2Proof
end

