-- ==== Sys2Proof/Laws/State.lean ====
section
/-! SUPPORT. What each shared operation does to each field of the state, so that no proof unfolds a record update. -/

namespace Sys2Proof.Machine

variable (s : State)

@[simp] theorem emit_cfg (bs : List Byte) : (emit bs s).cfg = s.cfg := rfl
@[simp] theorem emit_bcd (bs : List Byte) : (emit bs s).bcd = s.bcd := rfl
@[simp] theorem emit_busy (bs : List Byte) : (emit bs s).busy = s.busy := rfl
@[simp] theorem emit_q (bs : List Byte) : (emit bs s).q = s.q := rfl
@[simp] theorem emit_emitIdx (bs : List Byte) : (emit bs s).emitIdx = s.emitIdx := rfl
@[simp] theorem emit_wire (bs : List Byte) : (emit bs s).wire = s.wire ++ bs := rfl
@[simp] theorem emit_outs (bs : List Byte) : (emit bs s).outs = s.outs := rfl
@[simp] theorem emit_done (bs : List Byte) : (emit bs s).done = s.done := rfl
@[simp] theorem emit_held (bs : List Byte) : (emit bs s).held = s.held := rfl
@[simp] theorem emit_inputs (bs : List Byte) : (emit bs s).inputs = s.inputs := rfl
@[simp] theorem emit_draws (bs : List Byte) : (emit bs s).draws = s.draws := rfl

@[simp] theorem complete_cfg (st : Status) (r : Word) (n : BitVec 3) : (complete st r n s).cfg = s.cfg := rfl
@[simp] theorem complete_bcd (st : Status) (r : Word) (n : BitVec 3) : (complete st r n s).bcd = s.bcd := rfl
@[simp] theorem complete_busy (st : Status) (r : Word) (n : BitVec 3) : (complete st r n s).busy = s.busy := rfl
@[simp] theorem complete_q (st : Status) (r : Word) (n : BitVec 3) : (complete st r n s).q = s.q := rfl
@[simp] theorem complete_emitIdx (st : Status) (r : Word) (n : BitVec 3) : (complete st r n s).emitIdx = s.emitIdx := rfl
@[simp] theorem complete_wire (st : Status) (r : Word) (n : BitVec 3) : (complete st r n s).wire = s.wire := rfl
@[simp] theorem complete_outs (st : Status) (r : Word) (n : BitVec 3) : (complete st r n s).outs = ⟨statusCode st, r, n⟩ := rfl
@[simp] theorem complete_done (st : Status) (r : Word) (n : BitVec 3) : (complete st r n s).done = true := rfl
@[simp] theorem complete_held (st : Status) (r : Word) (n : BitVec 3) : (complete st r n s).held = s.held := rfl
@[simp] theorem complete_inputs (st : Status) (r : Word) (n : BitVec 3) : (complete st r n s).inputs = s.inputs := rfl
@[simp] theorem complete_draws (st : Status) (r : Word) (n : BitVec 3) : (complete st r n s).draws = s.draws := rfl

@[simp] theorem ignore_cfg (c : Status) : (ignore c s).cfg = s.cfg := rfl
@[simp] theorem ignore_bcd (c : Status) : (ignore c s).bcd = s.bcd := rfl
@[simp] theorem ignore_busy (c : Status) : (ignore c s).busy = s.busy := rfl
@[simp] theorem ignore_q (c : Status) : (ignore c s).q = s.q := rfl
@[simp] theorem ignore_emitIdx (c : Status) : (ignore c s).emitIdx = s.emitIdx := rfl
@[simp] theorem ignore_wire (c : Status) : (ignore c s).wire = s.wire := rfl
@[simp] theorem ignore_outs (c : Status) : (ignore c s).outs = ⟨statusCode c, 0, 0⟩ := rfl
@[simp] theorem ignore_done (c : Status) : (ignore c s).done = true := rfl
@[simp] theorem ignore_held (c : Status) : (ignore c s).held = s.held := rfl
@[simp] theorem ignore_inputs (c : Status) : (ignore c s).inputs = s.inputs := rfl
@[simp] theorem ignore_draws (c : Status) : (ignore c s).draws = s.draws := rfl

@[simp] theorem drawOutputs_cfg : (drawOutputs s).cfg = s.cfg := rfl
@[simp] theorem drawOutputs_bcd : (drawOutputs s).bcd = s.bcd := rfl
@[simp] theorem drawOutputs_busy : (drawOutputs s).busy = s.busy := rfl
@[simp] theorem drawOutputs_q : (drawOutputs s).q = s.q := rfl
@[simp] theorem drawOutputs_emitIdx : (drawOutputs s).emitIdx = s.emitIdx := rfl
@[simp] theorem drawOutputs_wire : (drawOutputs s).wire = s.wire := rfl
@[simp] theorem drawOutputs_outs : (drawOutputs s).outs = ⟨Config.freeStatus s.draws, Config.freeResult s.draws, Config.freeRespLen s.draws⟩ := rfl
@[simp] theorem drawOutputs_done : (drawOutputs s).done = s.done := rfl
@[simp] theorem drawOutputs_held : (drawOutputs s).held = s.held := rfl
@[simp] theorem drawOutputs_inputs : (drawOutputs s).inputs = s.inputs := rfl
@[simp] theorem drawOutputs_draws : (drawOutputs s).draws = s.draws + 1 := rfl

@[simp] theorem clearEmitter_cfg : (clearEmitter s).cfg = s.cfg := rfl
@[simp] theorem clearEmitter_bcd : (clearEmitter s).bcd = s.bcd := rfl
@[simp] theorem clearEmitter_busy : (clearEmitter s).busy = false := rfl
@[simp] theorem clearEmitter_q : (clearEmitter s).q = [] := rfl
@[simp] theorem clearEmitter_emitIdx : (clearEmitter s).emitIdx = 0 := rfl
@[simp] theorem clearEmitter_wire : (clearEmitter s).wire = s.wire := rfl
@[simp] theorem clearEmitter_outs : (clearEmitter s).outs = s.outs := rfl
@[simp] theorem clearEmitter_done : (clearEmitter s).done = s.done := rfl
@[simp] theorem clearEmitter_held : (clearEmitter s).held = none := rfl
@[simp] theorem clearEmitter_inputs : (clearEmitter s).inputs = s.inputs := rfl
@[simp] theorem clearEmitter_draws : (clearEmitter s).draws = s.draws := rfl

@[simp] theorem finishEmission_cfg : (finishEmission s).cfg = s.cfg := rfl
@[simp] theorem finishEmission_bcd : (finishEmission s).bcd = s.bcd := rfl
@[simp] theorem finishEmission_busy : (finishEmission s).busy = false := rfl
@[simp] theorem finishEmission_q : (finishEmission s).q = [] := rfl
@[simp] theorem finishEmission_emitIdx : (finishEmission s).emitIdx = 0 := rfl
@[simp] theorem finishEmission_wire : (finishEmission s).wire = s.wire := rfl
@[simp] theorem finishEmission_outs : (finishEmission s).outs = s.held.getD s.outs := rfl
@[simp] theorem finishEmission_done : (finishEmission s).done = true := rfl
@[simp] theorem finishEmission_held : (finishEmission s).held = none := rfl
@[simp] theorem finishEmission_inputs : (finishEmission s).inputs = s.inputs := rfl
@[simp] theorem finishEmission_draws : (finishEmission s).draws = s.draws := rfl

@[simp] theorem resetBlock_cfg : (resetBlock s).cfg = s.cfg := rfl
@[simp] theorem resetBlock_bcd : (resetBlock s).bcd = s.bcd := rfl
@[simp] theorem resetBlock_busy : (resetBlock s).busy = false := rfl
@[simp] theorem resetBlock_q : (resetBlock s).q = [] := rfl
@[simp] theorem resetBlock_emitIdx : (resetBlock s).emitIdx = 0 := rfl
@[simp] theorem resetBlock_wire : (resetBlock s).wire = s.wire := rfl
@[simp] theorem resetBlock_outs : (resetBlock s).outs = ⟨Config.freeStatus s.draws, Config.freeResult s.draws, Config.freeRespLen s.draws⟩ := rfl
@[simp] theorem resetBlock_done : (resetBlock s).done = false := rfl
@[simp] theorem resetBlock_held : (resetBlock s).held = none := rfl
@[simp] theorem resetBlock_inputs : (resetBlock s).inputs = s.inputs := rfl
@[simp] theorem resetBlock_draws : (resetBlock s).draws = s.draws + 1 := rfl

end Sys2Proof.Machine
end

