-- ==== Sys2Proof/Laws/Ops.lean ====
section
/-! SUPPORT. One spec lemma for each shared operation and for `exec`: everything it can do, said once. -/

namespace Sys2Proof.Machine

/-! ## Nibbles, digits, bytes -/

theorem digit_lt_ten (v j : Nat) : digit v j < 10 := Nat.mod_lt _ (by decide)

@[simp] theorem digitNibble_toNat (v j : Nat) : (digitNibble v j).toNat = digit v j := by
  have := digit_lt_ten v j
  simp only [digitNibble, BitVec.toNat_ofNat]
  omega

@[simp] theorem hi_pair (h l : Nibble) : hi (pair h l) = h := by
  revert h l
  decide

@[simp] theorem lo_pair (h l : Nibble) : lo (pair h l) = l := by
  revert h l
  decide

theorem hi_toNat (b : Byte) : (hi b).toNat = b.toNat / 16 := by
  revert b
  decide

theorem lo_toNat (b : Byte) : (lo b).toNat = b.toNat % 16 := by
  revert b
  decide

theorem pair_toNat (h l : Nibble) : (pair h l).toNat = 16 * h.toNat + l.toNat := by
  revert h l
  decide

/-- `pair` as one number. -/
theorem pair_eq_ofNat (h l : Nibble) : pair h l = BitVec.ofNat 8 (16 * h.toNat + l.toNat) := by
  have := h.isLt
  have := l.isLt
  apply BitVec.eq_of_toNat_eq
  rw [pair_toNat, BitVec.toNat_ofNat]
  omega

/-- Two neighbouring digits in the claims' own arithmetic. -/
theorem pair_digits (v j : Nat) : pair (digitNibble v (j + 1)) (digitNibble v j) = decimalByte v j := by
  rw [pair_eq_ofNat, digitNibble_toNat, digitNibble_toNat]
  rfl

theorem bcdBytes_four (v : Nat) : bcdBytes v 4 = [decimalByte v 2, decimalByte v 0] := by
  simp only [← pair_digits]
  rfl

theorem bcdBytes_eight (v : Nat) :
    bcdBytes v 8 = [decimalByte v 6, decimalByte v 4, decimalByte v 2, decimalByte v 0] := by
  simp only [← pair_digits]
  rfl

@[simp] theorem decodeByte_pair (r : Nat) (h l : Nibble) :
    decodeByte r (pair h l) = r * 100 + h.toNat * 10 + l.toNat := by simp [decodeByte]

theorem packBytes_toNat (b0 b1 b2 b3 : Byte) :
    (packBytes b0 b1 b2 b3).toNat = b0.toNat * 2 ^ 24 + b1.toNat * 2 ^ 16 + b2.toNat * 2 ^ 8 + b3.toNat := by
  have h0 := b0.isLt
  have h1 := b1.isLt
  have h2 := b2.isLt
  have h3 := b3.isLt
  have e3 : (b3.setWidth 32).toNat = b3.toNat := by
    rw [BitVec.toNat_setWidth]
    omega
  have s1 : b0.toNat * 2 ^ 24 ||| b1.toNat * 2 ^ 16 = b0.toNat * 2 ^ 24 + b1.toNat * 2 ^ 16 :=
    or_eq_add_of_dvd (k := 24) (by omega) (by omega)
  have s2 : (b0.toNat * 2 ^ 24 + b1.toNat * 2 ^ 16) ||| b2.toNat * 2 ^ 8 = b0.toNat * 2 ^ 24 + b1.toNat * 2 ^ 16 + b2.toNat * 2 ^ 8 :=
    or_eq_add_of_dvd (k := 16) (by omega) (by omega)
  rw [packBytes, BitVec.toNat_or, BitVec.toNat_or, BitVec.toNat_or, setWidth_shiftLeft_toNat _ _ _ (by decide),
    setWidth_shiftLeft_toNat _ _ _ (by decide), setWidth_shiftLeft_toNat _ _ _ (by decide), e3, s1, s2]
  exact or_eq_add_of_dvd (k := 8) (by omega) (by omega)

theorem bcdOut_toNat (r : BcdReg) :
    (bcdOut r).toNat = r.b0.toNat * 2 ^ 24 + r.b1.toNat * 2 ^ 16 + r.b2.toNat * 2 ^ 8 + r.b3.toNat :=
  packBytes_toNat _ _ _ _

/-- The bytes of a packed word are the bytes packed (20_memory.md R44). -/
@[simp] theorem wordBytes_packBytes (b0 b1 b2 b3 : Byte) : wordBytes (packBytes b0 b1 b2 b3) = [b0, b1, b2, b3] := by
  have h := packBytes_toNat b0 b1 b2 b3
  have h0 := b0.isLt
  have h1 := b1.isLt
  have h2 := b2.isLt
  have h3 := b3.isLt
  simp only [wordBytes, List.cons.injEq, and_true]
  refine ⟨?_, ?_, ?_, ?_⟩ <;>
    (apply BitVec.eq_of_toNat_eq; rw [BitVec.extractLsb'_toNat, Nat.shiftRight_eq_div_pow, h]; omega)

/-! ## The BCD register -/

@[simp] theorem readBcd_writeBcd (r : BcdReg) (i j : Nat) (v : Byte) (hj : j < 4) :
    readBcd (writeBcd r i v) j = if i = j then v else readBcd r j := by
  match j, hj with
  | 0, _ => rcases i with _ | _ | _ | _ | i <;> simp [readBcd, writeBcd]
  | 1, _ => rcases i with _ | _ | _ | _ | i <;> simp [readBcd, writeBcd]
  | 2, _ => rcases i with _ | _ | _ | _ | i <;> simp [readBcd, writeBcd]
  | 3, _ => rcases i with _ | _ | _ | _ | i <;> simp [readBcd, writeBcd]

/-- What the pair loop of ENC writes (40_bcd_codec.md R92): bytes 0..m-1 and no other. -/
theorem readBcd_encPairs (v n m : Nat) (r : BcdReg) (j : Nat) (hj : j < 4) :
    readBcd (encPairs v n m r) j =
      if j < m then pair (digitNibble v (n - 1 - 2 * j)) (digitNibble v (n - 2 - 2 * j)) else readBcd r j := by
  induction m with
  | zero => simp [encPairs]
  | succ i ih =>
    rw [encPairs, readBcd_writeBcd _ _ _ _ hj, ih]
    rcases Nat.lt_trichotomy i j with h | h | h
    · rw [if_neg (by omega), if_neg (by omega), if_neg (by omega)]
    · subst h
      rw [if_pos rfl, if_pos (by omega)]
    · rw [if_neg (by omega), if_pos h, if_pos (by omega)]

/-- What ENC of a digit count writes into byte j (R92, R93). -/
theorem readBcd_encReg (p : OddNibblePolicy) (v n : Nat) (r : BcdReg) (j : Nat) (hj : j < 4) :
    readBcd (encReg p v n r) j =
      if j < n / 2 then pair (digitNibble v (n - 1 - 2 * j)) (digitNibble v (n - 2 - 2 * j))
      else if n = 2 * j + 1 then pair (oddHighNibble p (readBcd r j)) (digitNibble v 0)
      else readBcd r j := by
  simp only [encReg]
  split
  · rw [readBcd_writeBcd _ _ _ _ hj, readBcd_encPairs _ _ _ _ _ hj]
    by_cases h : n / 2 = j
    · rw [if_pos h, if_neg (by omega), if_pos (by omega), h, readBcd_encPairs _ _ _ _ _ hj, if_neg (by omega)]
    · rw [if_neg h]
      split
      · rfl
      · rw [if_neg (by omega)]
  · rw [readBcd_encPairs _ _ _ _ _ hj]
    split
    · rfl
    · rw [if_neg (by omega)]

/-! ## Commands -/

/-- ENC of a legal digit count (40_bcd_codec.md R92). -/
theorem execEnc_legal {n : Nat} (h : n ≤ 8) (v : Nat) (s : State) :
    execEnc v n s =
      .next
        (complete .ok (bcdOut (encReg s.cfg.oddNibblePolicy v n s.bcd)) 0
          { s with bcd := encReg s.cfg.oddNibblePolicy v n s.bcd }) := by
  simp only [execEnc, if_neg (Nat.not_lt.mpr h)]

theorem execEnc_over {n : Nat} (h : 8 < n) (v : Nat) (s : State) : execEnc v n s = .next (ignore .badDigitCount s) := by
  simp only [execEnc, if_pos h]

/-- DEC of a legal byte count (40_bcd_codec.md R95). -/
theorem execDec_legal {k : Nat} (h : k ≤ 4) (w : Word) (s : State) :
    execDec w k s = .next (complete .ok (BitVec.ofNat 32 (decodeBytes ((wordBytes w).take k))) 0 s) := by
  simp only [execDec, if_neg (Nat.not_lt.mpr h)]

theorem execDec_over {k : Nat} (h : 4 < k) (w : Word) (s : State) : execDec w k s = .next (ignore .badByteCount s) := by
  simp only [execDec, if_pos h]

theorem execSetMode_legal {m : Nat} (h : m ≤ 8) (s : State) :
    execSetMode m s = sendBytes (frameB (modeByte m) s.cfg.opcModeSet) 1 s := by
  simp only [execSetMode, if_neg (Nat.not_lt.mpr h)]

theorem execSetMode_over {m : Nat} (h : 8 < m) (s : State) : execSetMode m s = .next (ignore .modeRange s) := by
  simp only [execSetMode, if_pos h]

/-- A framed command emits its bytes and completes with OK (42_commands.md, preface). -/
theorem sendBytes_eq (bs : List Byte) (n : BitVec 3) (s : State) :
    sendBytes bs n s = .next { s with wire := s.wire ++ bs, outs := ⟨0, 0, n⟩, done := true } := rfl

/-- An ignored command sets its outputs and nothing else (R118). -/
theorem ignore_eq (c : Status) (s : State) : ignore c s = { s with outs := ⟨statusCode c, 0, 0⟩, done := true } := rfl

theorem statusCode_le (c : Status) : (statusCode c).toNat ≤ 4 := by cases c <;> decide

/-- The shape of the state after a command (see `exec_next`). -/
abbrev CommandStep (s t : State) : Prop :=
  ∃ r out o, t = { s with bcd := r, wire := s.wire ++ out, outs := o, done := true } ∧ o.status.toNat ≤ 4 ∧
    (out = [] ∨ (isRun s.cfg out = true ∧ r = s.bcd ∧ o.status = 0 ∧ o.result = 0))

theorem sendBytes_step {bs : List Byte} {n : BitVec 3} {s t : State} (hrun : isRun s.cfg bs = true)
    (h : sendBytes bs n s = .next t) : CommandStep s t := by
  cases h
  exact ⟨s.bcd, bs, ⟨0, 0, n⟩, rfl, by simp, .inr ⟨hrun, rfl, rfl, rfl⟩⟩

theorem complete_step (st : Status) (res : Word) (n : BitVec 3) (r : BcdReg) (s : State) :
    CommandStep s (complete st res n { s with bcd := r }) :=
  ⟨r, [], ⟨statusCode st, res, n⟩, by simp [complete], statusCode_le st, .inl rfl⟩

theorem isRun_frameA {c : Config} {opc : Byte} (h : opc ∈ c.opcodes) : isRun c (frameA opc) = true := by
  simp [isRun, frameA, pre3, pre4, h]

theorem isRun_frameB {c : Config} {d opc : Byte} (h : opc ∈ c.opcodes) : isRun c (frameB d opc) = true := by
  simp [isRun, frameB, pre3, h]

theorem isRun_frameC {c : Config} {ds : List Byte} {opc : Byte} (hl : ds.length = 4) (h : opc ∈ c.opcodes) :
    isRun c (frameC ds opc) = true := by
  simp [isRun, frameC, hl, h]

theorem isRun_wake (c : Config) : isRun c (wakePrefix c ++ frameA c.opcPwrOn) = true := by
  simp [isRun, frameA, pre3, pre4, wakePrefix, fill]

@[simp] theorem bcdBytes_length (v n : Nat) : (bcdBytes v n).length = n / 2 := by simp [bcdBytes]

/-- Everything a command of the block can do (41_frame_builder.md R117): the next state differs from the state in the
register, the wire, the outputs and `done` alone; a command that emits puts a legal run on the wire, writes no register byte
and completes with OK. -/
theorem exec_next {i : Instr} {s t : State} (h : exec i s = .next t) : CommandStep s t := by
  cases i
  case enc v n =>
    simp only [exec, execEnc] at h
    split at h <;> cases h
    · exact complete_step _ _ _ s.bcd s
    · exact complete_step _ _ _ _ s
  case dec w k =>
    simp only [exec, execDec] at h
    split at h <;> cases h <;> exact complete_step _ _ _ s.bcd s
  case setMode m =>
    simp only [exec, execSetMode] at h
    split at h
    · cases h
      exact complete_step _ _ _ s.bcd s
    · exact sendBytes_step (isRun_frameB (by simp [Config.opcodes])) h
  case readTxState2 =>
    simp only [exec, execReadTxState2] at h
    split at h
    · exact sendBytes_step (isRun_frameA (by simp [Config.opcodes, *])) h
    · cases h
  case pwrOn => exact sendBytes_step (isRun_wake _) h
  case setFreq f => exact sendBytes_step (isRun_frameC (by simp) (by simp [Config.opcodes])) h
  case rptOffset o => exact sendBytes_step (isRun_frameC (by simp) (by simp [Config.opcodes])) h
  case setCtcssFreq t => exact sendBytes_step (isRun_frameC (by simp) (by simp [Config.opcodes])) h
  case readEeprom a => exact sendBytes_step (isRun_frameC (by simp) (by simp [Config.opcodes])) h
  case rptDir o => exact sendBytes_step (isRun_frameB (by simp [Config.opcodes])) h
  case ctcssEncOn => exact sendBytes_step (isRun_frameB (by simp [Config.opcodes])) h
  case ctcssEncOff => exact sendBytes_step (isRun_frameB (by simp [Config.opcodes])) h
  all_goals exact sendBytes_step (isRun_frameA (by simp [Config.opcodes])) h

/-- A command does not read the wire: on another wire it emits the same bytes (R117). -/
theorem exec_withWire (i : Instr) (s : State) :
    ∃ out, ∀ w, exec i { s with wire := w } =
      match exec i s with
      | .next t => .next { t with wire := w ++ out }
      | .fault f => .fault f
      | .refused r => .refused r := by
  have send (bs : List Byte) (n : BitVec 3) : ∃ out, ∀ w, sendBytes bs n { s with wire := w } =
      match sendBytes bs n s with
      | .next t => .next { t with wire := w ++ out }
      | .fault f => .fault f
      | .refused r => .refused r := ⟨bs, fun w => rfl⟩
  cases i
  case enc v n =>
    refine ⟨[], fun w => ?_⟩
    simp only [exec, execEnc]
    split <;> simp [ignore, complete]
  case dec w k =>
    refine ⟨[], fun w' => ?_⟩
    simp only [exec, execDec]
    split <;> simp [ignore, complete]
  case setMode m =>
    by_cases hm : 8 < m
    · exact ⟨[], fun w => by simp [exec, execSetMode, hm, ignore, complete]⟩
    · simp only [exec, execSetMode, if_neg hm]
      exact send _ _
  case readTxState2 =>
    simp only [exec, execReadTxState2]
    cases s.cfg.opcTxState2 with
    | none => exact ⟨[], fun w => rfl⟩
    | some opc => exact send _ _
  all_goals
    simp only [exec, execPwrOn, execPwrOff, execLockOn, execLockOff, execSetFreq, execReadFreqMode, execSplitOn, execSplitOff,
      execVfoSwap, execPttOn, execPttOff, execRptDir, execRptOffset, execCtcssEncOn, execCtcssEncOff, execSetCtcssFreq,
      execReadTxMeters, execReadTxState, execReadRxStatus, execReadEeprom]
    exact send _ _

/-- The same for a command word. -/
theorem runWord_next {cw : CmdWord} {s t : State} (h : runWord cw s = .next t) : CommandStep s t := by
  simp only [runWord] at h
  split at h
  · exact exec_next h
  · cases h
    exact complete_step _ _ _ s.bcd s

theorem runWord_withWire (cw : CmdWord) (s : State) :
    ∃ out, ∀ w, runWord cw { s with wire := w } =
      match runWord cw s with
      | .next t => .next { t with wire := w ++ out }
      | .fault f => .fault f
      | .refused r => .refused r := by
  simp only [runWord]
  split
  · exact exec_withWire _ _
  · exact ⟨[], fun w => by simp [ignore, complete]⟩

/-- Acceptance at the port level (R122): where the step of R117 answers t with `out` emitted, the emitter is loaded with
`out`, or the command completes at once when there is none (R124). -/
theorem acceptWord_next {cw : CmdWord} {s u : State} (h : acceptWord cw s = .next u) :
    ∃ t out, runWord cw s = .next t ∧ t.wire = s.wire ++ out ∧
      ((out = [] ∧ u = t) ∨
        (out ≠ [] ∧ isRun s.cfg out = true ∧
          u = drawOutputs { t with wire := s.wire, q := out, emitIdx := 0, busy := true, done := false, held := some t.outs })) := by
  obtain ⟨out, hw⟩ := runWord_withWire cw s
  have hs : runWord cw s = match runWord cw s with
      | .next t => .next { t with wire := s.wire ++ out }
      | .fault f => .fault f
      | .refused r => .refused r := hw s.wire
  rw [acceptWord, hw []] at h
  cases hr : runWord cw s with
  | fault f => exact nomatch f
  | refused r => rw [hr] at h; cases h
  | next t =>
    rw [hr] at h hs
    have hs' : t = { t with wire := s.wire ++ out } := Host.Outcome.next.inj hs
    have ht : t.wire = s.wire ++ out := by rw [hs']
    simp only [List.nil_append, Host.Outcome.next.injEq] at h
    subst h
    refine ⟨t, out, rfl, ht, ?_⟩
    cases out with
    | nil =>
      refine .inl ⟨rfl, ?_⟩
      simp only [List.append_nil] at ht
      simp only [loadEmitter, ← ht]
    | cons b bs =>
      refine .inr ⟨by simp, ?_, by simp [loadEmitter]⟩
      obtain ⟨r, out', o, he, -, hrun⟩ := runWord_next hr
      have : out' = b :: bs := by
        rw [he] at ht
        exact List.append_cancel_left ht
      subst this
      rcases hrun with hnil | ⟨hrun, -⟩
      · cases hnil
      · exact hrun

/-- A byte transfer that is not the last (R123). -/
theorem transferByte_middle {s : State} (h : s.emitIdx + 1 < s.q.length) :
    transferByte s =
      { s with wire := s.wire ++ (s.q[s.emitIdx]?).toList, emitIdx := s.emitIdx + 1, done := false } := by
  simp only [transferByte]
  rw [if_neg (by omega)]

/-- The last byte transfer completes the command (R124). -/
theorem transferByte_last {s : State} (h : s.q.length ≤ s.emitIdx + 1) :
    transferByte s =
      { s with
        wire := s.wire ++ (s.q[s.emitIdx]?).toList, emitIdx := 0, q := [], busy := false, held := none,
        outs := s.held.getD s.outs, done := true } := by
  simp only [transferByte]
  rw [if_pos (by simpa using h)]
  rfl

/-- One rising edge, all it can do (R122 to R125, R230). -/
theorem clockEdge_next {p : PortIn} {s t : State} (h : clockEdge p s = .next t) :
    (p.rst = true ∧ t = resetBlock s) ∨
    (p.rst = false ∧ s.busy = true ∧ p.outReady = true ∧ t = transferByte s) ∨
    (p.rst = false ∧ s.busy = true ∧ p.outReady = false ∧ t = { s with done := false }) ∨
    (accepts p s = true ∧ acceptWord p.cmdWord s = .next t) ∨
    (p.rst = false ∧ s.busy = false ∧ p.cmdValid = false ∧ t = { s with done := false }) := by
  simp only [clockEdge] at h
  split at h
  · exact .inl ⟨‹_›, (Host.Outcome.next.inj h).symm⟩
  · split at h
    · split at h
      · exact .inr (.inl ⟨by simpa using ‹¬p.rst = true›, ‹_›, ‹_›, (Host.Outcome.next.inj h).symm⟩)
      · exact .inr (.inr (.inl ⟨by simpa using ‹¬p.rst = true›, ‹_›, by simpa using ‹¬p.outReady = true›,
          (Host.Outcome.next.inj h).symm⟩))
    · split at h
      · exact .inr (.inr (.inr (.inl ⟨by simp_all [accepts], h⟩)))
      · exact .inr (.inr (.inr (.inr ⟨by simpa using ‹¬p.rst = true›, by simpa using ‹¬s.busy = true›,
          by simpa using ‹¬p.cmdValid = true›, (Host.Outcome.next.inj h).symm⟩)))

end Sys2Proof.Machine
end

