-- ==== Sys2Proof/Laws/Environment.lean ====
section
/-! SUPPORT. One spec lemma for each operation of the transport and of the host side: what it answers and what it leaves. -/

namespace Sys2Proof.Machine

/-! ## The transport (48_host_interface.md R180, R181) -/

@[simp] theorem openAt_isOpen (baud : Nat) (t : Transport) : (t.openAt baud).isOpen = true := rfl
@[simp] theorem openAt_sent (baud : Nat) (t : Transport) : (t.openAt baud).sent = t.sent := rfl
@[simp] theorem openAt_unread (baud : Nat) (t : Transport) : (t.openAt baud).unread = t.unread := rfl
@[simp] theorem openAt_arrivals (baud : Nat) (t : Transport) : (t.openAt baud).arrivals = t.arrivals := rfl
@[simp] theorem flush_sent (t : Transport) : t.flush.sent = t.sent := rfl
@[simp] theorem flush_unread (t : Transport) : t.flush.unread = [] := rfl
@[simp] theorem flush_arrivals (t : Transport) : t.flush.arrivals = t.arrivals := rfl
@[simp] theorem flush_isOpen (t : Transport) : t.flush.isOpen = t.isOpen := rfl

/-- An open transport carries the bytes, in order. -/
theorem writeBytes_open {t : Transport} (ho : t.isOpen = true) (bs : List Byte) :
    t.writeBytes bs = { t with sent := t.sent ++ bs } := by
  induction bs generalizing t with
  | nil => simp [Transport.writeBytes]
  | cons b bs ih =>
    rw [Transport.writeBytes, List.foldl_cons, Transport.writeByte, if_pos ho]
    exact (ih (t := { t with sent := t.sent ++ [b] }) ho).trans (by simp)

/-- A transport that was never opened carries nothing (70_reset_and_hazards.md R236). -/
theorem writeBytes_closed {t : Transport} (ho : t.isOpen = false) (bs : List Byte) : t.writeBytes bs = t := by
  induction bs with
  | nil => rfl
  | cons b bs ih =>
    rw [Transport.writeBytes, List.foldl_cons, Transport.writeByte, if_neg (by simp [ho])]
    exact ih

/-- The wait of a timed read moves one list of arrivals behind the unread bytes. -/
theorem poll_open {t : Transport} (ho : t.isOpen = true) {a : List Byte} {more : List (List Byte)} (ha : t.arrivals = a :: more) :
    t.poll = { t with unread := t.unread ++ a, arrivals := more } := by
  simp [Transport.poll, ho, ha]

/-- No timed read makes, loses or reorders a byte: what is unread and what is to come keep their concatenation. -/
theorem poll_stream (t : Transport) : t.poll.unread ++ t.poll.arrivals.flatten = t.unread ++ t.arrivals.flatten := by
  unfold Transport.poll
  split
  · cases t.arrivals <;> simp
  · rfl

@[simp] theorem poll_sent (t : Transport) : t.poll.sent = t.sent := by
  unfold Transport.poll
  split <;> rfl

/-- A single-byte read takes the head of what is available. -/
theorem readByte_eq (t : Transport) : t.readByte = (t.unread.head?, { t with unread := t.unread.tail }) := by
  cases t with
  | mk baud sent unread arrivals => cases unread <;> rfl

/-- A timed single-byte read takes the head of what is unread and what arrives; with neither it is a timeout (R184). -/
theorem readOneByte_open {t : Transport} (ho : t.isOpen = true) {a : List Byte} {more : List (List Byte)}
    (ha : t.arrivals = a :: more) :
    t.readOneByte = ((t.unread ++ a).head?, { t with unread := (t.unread ++ a).tail, arrivals := more }) := by
  rw [Transport.readOneByte, poll_open ho ha, readByte_eq]

/-- A response of one byte. -/
theorem readBytes_one {t : Transport} (ho : t.isOpen = true) {a : List Byte} {more : List (List Byte)}
    (ha : t.arrivals = a :: more) :
    t.readBytes 1 =
      ([(t.unread ++ a).head?], { t with unread := (t.unread ++ a).tail, arrivals := more }) := by
  simp only [Transport.readBytes, readOneByte_open ho ha]
  cases t.unread ++ a <;> rfl

/-- A READ_FREQ_MODE response of at least five bytes. -/
theorem readFrequencyAndMode_answer {t : Transport} (ho : t.isOpen = true) {a : List Byte} {more : List (List Byte)}
    (ha : t.arrivals = a :: more) {r0 r1 r2 r3 r4 : Byte} {rest : List Byte}
    (hq : t.unread ++ a = r0 :: r1 :: r2 :: r3 :: r4 :: rest) :
    t.readFrequencyAndMode = (some (packBytes r0 r1 r2 r3, r4), { t with unread := rest, arrivals := more }) := by
  simp [Transport.readFrequencyAndMode, poll_open ho ha, hq]

/-- Fewer than five bytes: a timeout, and the bytes stay unread. -/
theorem readFrequencyAndMode_timeout {t : Transport} (ho : t.isOpen = true) {a : List Byte} {more : List (List Byte)}
    (ha : t.arrivals = a :: more) (hl : (t.unread ++ a).length < 5) :
    t.readFrequencyAndMode = (none, { t with unread := t.unread ++ a, arrivals := more }) := by
  simp only [Transport.readFrequencyAndMode, poll_open ho ha]
  split
  · next h => rw [h] at hl; simp only [List.length_cons] at hl; omega
  · rfl

/-! ## Round trips (R182, R183) -/

/-- A command issued over an open transport: the block is in the command's next state and the transport carries its bytes. -/
theorem issue_open {i : Instr} {h : HostSide} {t : State} {out : List Byte} (ho : h.transport.isOpen = true)
    (he : exec i h.block = .next t) (hw : t.wire = h.block.wire ++ out) :
    issue i h = .ok { h with block := t, transport := { h.transport with sent := h.transport.sent ++ out } } := by
  simp only [issue, he, hw, List.drop_left, writeBytes_open ho]

/-- A command that emits nothing leaves the transport, open or not (ENC and DEC, R182). -/
theorem issue_silent {i : Instr} {h : HostSide} {t : State} (he : exec i h.block = .next t) (hw : t.wire = h.block.wire) :
    issue i h = .ok { h with block := t } := by
  simp only [issue, he, hw, List.drop_length, Transport.writeBytes, List.foldl_nil]

/-- A command whose one acknowledgement byte is read, after its bytes are sent. -/
theorem acknowledged_open {i : Instr} {h : HostSide} {t : State} {out a : List Byte} {more : List (List Byte)}
    (ho : h.transport.isOpen = true) (he : exec i h.block = .next t) (hw : t.wire = h.block.wire ++ out)
    (hr : t.outs.respLen = 1) (ha : h.transport.arrivals = a :: more) :
    acknowledged i h = .ok ((h.transport.unread ++ a).head?,
      { h with
        block := t
        transport :=
          { h.transport with
            sent := h.transport.sent ++ out, unread := (h.transport.unread ++ a).tail, arrivals := more } }) := by
  simp only [acknowledged, roundTrip, issue_open ho he hw, bind, Except.bind, pure, Except.pure, hr]
  rw [show (1 : BitVec 3).toNat = 1 from rfl,
    readBytes_one (t := { h.transport with sent := h.transport.sent ++ out }) ho ha]
  rfl

/-- Four bytes always decode to a number that fits 32 bits (40_bcd_codec.md R96). -/
theorem decodeBytes_four_lt (b0 b1 b2 b3 : Byte) : decodeBytes [b0, b1, b2, b3] < 2 ^ 32 := by
  have := (hi b0).isLt
  have := (hi b1).isLt
  have := (hi b2).isLt
  have := (hi b3).isLt
  have := (lo b0).isLt
  have := (lo b1).isLt
  have := (lo b2).isLt
  have := (lo b3).isLt
  simp only [decodeBytes, List.foldl_cons, List.foldl_nil, decodeByte]
  omega

/-- DEC by the block of the four frequency bytes. -/
theorem decodeByBlock_four (r0 r1 r2 r3 : Byte) (h : HostSide) :
    decodeByBlock (packBytes r0 r1 r2 r3) 4 h =
      .ok (decodeBytes [r0, r1, r2, r3],
        { h with block := complete .ok (BitVec.ofNat 32 (decodeBytes [r0, r1, r2, r3])) 0 h.block }) := by
  have hd : (BitVec.ofNat 32 (decodeBytes [r0, r1, r2, r3])).toNat = decodeBytes [r0, r1, r2, r3] := by
    rw [BitVec.toNat_ofNat, Nat.mod_eq_of_lt (decodeBytes_four_lt ..)]
  have he : exec (.dec (packBytes r0 r1 r2 r3) 4) h.block =
      .next (complete .ok (BitVec.ofNat 32 (decodeBytes [r0, r1, r2, r3])) 0 h.block) := by
    simp only [exec, execDec, maxDecBytes, if_neg (show ¬4 < 4 by decide), wordBytes_packBytes, List.take]
  simp only [decodeByBlock, issue_silent he rfl, bind, Except.bind, pure, Except.pure, complete_outs, hd]

/-- READ_FREQ_MODE with a whole answer. -/
theorem readFrequency_answer {h : HostSide} (ho : h.transport.isOpen = true) {a : List Byte} {more : List (List Byte)}
    (ha : h.transport.arrivals = a :: more) {r0 r1 r2 r3 r4 : Byte} {rest : List Byte}
    (hq : h.transport.unread ++ a = r0 :: r1 :: r2 :: r3 :: r4 :: rest) :
    ∃ t, readFrequency h = .ok (some ⟨decodeBytes [r0, r1, r2, r3], r4, modeLabel h.hcfg r4⟩,
        { h with
          block := t
          transport :=
            { h.transport with
              sent := h.transport.sent ++ frameA h.block.cfg.opcReadFreqMode, unread := rest, arrivals := more }
          freq := decodeBytes [r0, r1, r2, r3]
          mode := (r4, modeLabel h.hcfg r4) }) ∧
      t.cfg = h.block.cfg ∧ t.wire = h.block.wire ++ frameA h.block.cfg.opcReadFreqMode := by
  have hi := issue_open (i := .readFreqMode) ho rfl rfl
  have hf := readFrequencyAndMode_answer
    (t := { h.transport with sent := h.transport.sent ++ frameA h.block.cfg.opcReadFreqMode }) ho ha hq
  simp only [readFrequency, hi, hf, decodeByBlock_four, bind, Except.bind, pure, Except.pure]
  exact ⟨_, rfl, rfl, rfl⟩

/-- READ_FREQ_MODE with fewer than five bytes: a timeout (R185). -/
theorem readFrequency_timeout {h : HostSide} (ho : h.transport.isOpen = true) {a : List Byte} {more : List (List Byte)}
    (ha : h.transport.arrivals = a :: more) (hl : (h.transport.unread ++ a).length < 5) :
    ∃ t, readFrequency h = .ok (none,
        { h with
          block := t
          transport :=
            { h.transport with
              sent := h.transport.sent ++ frameA h.block.cfg.opcReadFreqMode
              unread := h.transport.unread ++ a
              arrivals := more } }) ∧
      t.cfg = h.block.cfg ∧ t.wire = h.block.wire ++ frameA h.block.cfg.opcReadFreqMode := by
  have hi := issue_open (i := .readFreqMode) ho rfl rfl
  have hf := readFrequencyAndMode_timeout
    (t := { h.transport with sent := h.transport.sent ++ frameA h.block.cfg.opcReadFreqMode }) ho ha hl
  simp only [readFrequency, hi, hf, bind, Except.bind, pure, Except.pure]
  exact ⟨_, rfl, rfl, rfl⟩

end Sys2Proof.Machine
end

