-- ==== Sys2Proof/Laws/PerInstr.lean ====
section
/-! SUPPORT. One small law of every command as syntax, constructor by constructor. -/

namespace Sys2Proof.Laws.SelectorField

/-- The word the encoder writes carries the command's selector in CW[40:36] (30_encoding.md R60, R61). -/
def Statement (i : Instr) : Prop := selOf (encode i) = i.selector

theorem enc (v : Nat) (n : Nat) : Statement (.enc v n) := selOf_packWord _ _ _

theorem dec (w : Word) (k : Nat) : Statement (.dec w k) := selOf_packWord _ _ _

theorem pwrOn : Statement .pwrOn := selOf_packWord _ _ _

theorem pwrOff : Statement .pwrOff := selOf_packWord _ _ _

theorem lockOn : Statement .lockOn := selOf_packWord _ _ _

theorem lockOff : Statement .lockOff := selOf_packWord _ _ _

theorem setFreq (f : Nat) : Statement (.setFreq f) := selOf_packWord _ _ _

theorem readFreqMode : Statement .readFreqMode := selOf_packWord _ _ _

theorem setMode (m : Nat) : Statement (.setMode m) := selOf_packWord _ _ _

theorem splitOn : Statement .splitOn := selOf_packWord _ _ _

theorem splitOff : Statement .splitOff := selOf_packWord _ _ _

theorem vfoSwap : Statement .vfoSwap := selOf_packWord _ _ _

theorem pttOn : Statement .pttOn := selOf_packWord _ _ _

theorem pttOff : Statement .pttOff := selOf_packWord _ _ _

theorem rptDir (o : Int) : Statement (.rptDir o) := selOf_packWord _ _ _

theorem rptOffset (o : Int) : Statement (.rptOffset o) := selOf_packWord _ _ _

theorem ctcssEncOn : Statement .ctcssEncOn := selOf_packWord _ _ _

theorem ctcssEncOff : Statement .ctcssEncOff := selOf_packWord _ _ _

theorem setCtcssFreq (t : Nat) : Statement (.setCtcssFreq t) := selOf_packWord _ _ _

theorem readTxMeters : Statement .readTxMeters := selOf_packWord _ _ _

theorem readTxState : Statement .readTxState := selOf_packWord _ _ _

theorem readTxState2 : Statement .readTxState2 := selOf_packWord _ _ _

theorem readRxStatus : Statement .readRxStatus := selOf_packWord _ _ _

theorem readEeprom (a : Nat) : Statement (.readEeprom a) := selOf_packWord _ _ _

end Sys2Proof.Laws.SelectorField
end

