-- ==== Sys2Proof/Tests/Slice0.lean ====
section
/-! SUPPORT. The model's own tests. Words, bytes and results are those of spec/95_test_vectors.md, sections L2.1 to L2.6 and P1 to
P6 (each test names its rows); none is the model's own answer. Then a witness for the hypotheses of each obligation that has some. -/

namespace Sys2Proof.Tests

open Sys2Proof.Machine

/-! ## The bench: `bcd_buf = AA BB CC DD`, wire empty, default bytes, a concrete OPC_TX_STATE2 -/

def benchConfig (p : OddNibblePolicy) : Config := { defaultConfig with oddNibblePolicy := p, opcTxState2 := some 0x7E }

def bench (p : OddNibblePolicy) : State :=
  { State.reset with cfg := benchConfig p, bcd := ⟨0xAA, 0xBB, 0xCC, 0xDD⟩, outs := ⟨0, 0, 0⟩ }

/-- The bench under LITERAL. -/
def lit : State := bench .literal

/-- The next state, where there is one. -/
def nextOf (r : Result) : Option State :=
  match r with
  | .next t => some t
  | .fault _ => none
  | .refused _ => none

/-- One step on the bench with a command word placed by the host. -/
def stepOn (s : State) (cw : Nat) : Option State := nextOf (step (s.withFetchWord 41 cw))

/-- The bytes, outputs and register a step leaves. -/
def shows (s : State) (cw : Nat) : Option (List Byte × Outputs × BcdReg) :=
  (stepOn s cw).map fun t => (t.wire, t.outs, t.bcd)

/-- A framed command's row of L2.3: the bytes and the response length, with `bcd_buf` unchanged, st 0 and res 0. -/
def sends (cw : Nat) (bytes : List Byte) (rl : BitVec 3) : Bool :=
  shows lit cw == some (bytes, ⟨0, 0, rl⟩, ⟨0xAA, 0xBB, 0xCC, 0xDD⟩)

/-- An ignored word's row of L2.4. -/
def ignored (cw : Nat) (st : BitVec 3) : Bool :=
  shows lit cw == some ([], ⟨st, 0, 0⟩, ⟨0xAA, 0xBB, 0xCC, 0xDD⟩)

/-! ## Well-formedness: each check refuses an ill-formed term (R78, R72, R73) -/

theorem test_wf_arg_too_wide : (Instr.setFreq 4294967296).wf = false := by decide
theorem test_wf_arg_widest : (Instr.setFreq 4294967295).wf = true := by decide
theorem test_wf_aux_too_wide : (Instr.enc 5 16).wf = false ∧ (Instr.dec 0 16).wf = false := by decide
theorem test_wf_signed_too_low : (Instr.rptOffset (-2147483649)).wf = false := by decide
theorem test_wf_signed_too_high : (Instr.rptDir 2147483648).wf = false := by decide
theorem test_wf_addr_too_wide : (Instr.readEeprom 0x10000).wf = false := by decide
/-- "Values that fit the field but are out of range for the command, such as SET_MODE 9 or ENC 5, 9, are assembled" (R78). -/
theorem test_wf_out_of_range_fits : (Instr.setMode 9).wf = true ∧ (Instr.enc 5 9).wf = true := by decide
theorem test_wf_bench_config : (benchConfig .literal).wf = true := by decide
theorem test_wf_config_opcode_clash : { benchConfig .literal with opcPttOn := 0x0F }.wf = false := by decide
theorem test_wf_config_subcode_clash : { benchConfig .literal with ctcssEncOnCode := 0x0A }.wf = false := by decide
theorem test_wf_config_direction_clash : { benchConfig .literal with dirPlus := 0x89 }.wf = false := by decide
theorem test_wf_host_badRead : { defaultHostConfig with badRead := 99999999 }.wf = false := by decide
theorem test_wf_host_shared_label :
    { defaultHostConfig with badRead := 4294967295, modeCodes := [(0x00, .lsb), (0x01, .lsb)] }.wf = false := by decide
theorem test_wf_host_smeter : { defaultHostConfig with badRead := 4294967295, smeterCodes := [0, 1] }.wf = false := by decide

/-! ## Decoding: words of 95_test_vectors.md L2.1 to L2.4, one for every command -/

theorem test_decode_enc : decode 0x00800D97010 = .ok (.enc 14250000 8) := by decide
theorem test_decode_dec : decode 0x01414250000 = .ok (.dec 0x14250000 4) := by decide
theorem test_decode_pwrOn : decode 0x02000000000 = .ok .pwrOn := by decide
theorem test_decode_pwrOff : decode 0x03000000000 = .ok .pwrOff := by decide
theorem test_decode_lockOn : decode 0x04000000000 = .ok .lockOn := by decide
theorem test_decode_lockOff : decode 0x05000000000 = .ok .lockOff := by decide
theorem test_decode_setFreq : decode 0x060FFFFFFFF = .ok (.setFreq 4294967295) := by decide
theorem test_decode_readFreqMode : decode 0x07000000000 = .ok .readFreqMode := by decide
theorem test_decode_setMode : decode 0x08000000100 = .ok (.setMode 256) := by decide
theorem test_decode_splitOn : decode 0x09000000000 = .ok .splitOn := by decide
theorem test_decode_splitOff : decode 0x0A000000000 = .ok .splitOff := by decide
theorem test_decode_vfoSwap : decode 0x0B000000000 = .ok .vfoSwap := by decide
theorem test_decode_pttOn : decode 0x0CFFFFFFFFF = .ok .pttOn := by decide
theorem test_decode_pttOff : decode 0x0D000000000 = .ok .pttOff := by decide
theorem test_decode_rptDir : decode 0x0E0FFF6D840 = .ok (.rptDir (-600000)) := by decide
theorem test_decode_rptOffset : decode 0x0F080000000 = .ok (.rptOffset (-2147483648)) := by decide
theorem test_decode_ctcssEncOn : decode 0x10000000000 = .ok .ctcssEncOn := by decide
theorem test_decode_ctcssEncOff : decode 0x11000000000 = .ok .ctcssEncOff := by decide
theorem test_decode_setCtcssFreq : decode 0x12000000375 = .ok (.setCtcssFreq 885) := by decide
theorem test_decode_readTxMeters : decode 0x13000000000 = .ok .readTxMeters := by decide
theorem test_decode_readTxState : decode 0x14000000000 = .ok .readTxState := by decide
theorem test_decode_readTxState2 : decode 0x15000000000 = .ok .readTxState2 := by decide
theorem test_decode_readRxStatus : decode 0x16000000000 = .ok .readRxStatus := by decide
theorem test_decode_readEeprom : decode 0x17012345678 = .ok (.readEeprom 0x5678) := by decide
theorem test_decode_reserved : decode 0x1F123456789 = .error (.reservedSelector 0x1F) := by decide
theorem test_encode_rptDir : encode (.rptDir (-600000)) = 0x0E0FFF6D840 := by decide
theorem test_decodeTableWord : decodeTableWord 48 0x00400000375 = some (.enc 885 4) ∧ decodeTableWord 48 0x18000000000 = none := by
  decide

/-! ## One step per command: L2.1, L2.2, L2.3 -/

theorem test_enc_odd_count :
    shows lit 0x0070012D687 = some ([], ⟨0, 0x123456D7, 0⟩, ⟨0x12, 0x34, 0x56, 0xD7⟩) ∧
    shows (bench .prezero) 0x0070012D687 = some ([], ⟨0, 0x12345607, 0⟩, ⟨0x12, 0x34, 0x56, 0x07⟩) := by decide
theorem test_enc_drops_higher_digits :
    shows lit 0x008FFFFFFFF = some ([], ⟨0, 0x94967295, 0⟩, ⟨0x94, 0x96, 0x72, 0x95⟩) := by decide
theorem test_dec_nonBcd : shows lit 0x014FFFFFFFF = some ([], ⟨0, 166666665, 0⟩, ⟨0xAA, 0xBB, 0xCC, 0xDD⟩) := by decide
theorem test_dec_leading_bytes : shows lit 0x01312345678 = some ([], ⟨0, 123456, 0⟩, ⟨0xAA, 0xBB, 0xCC, 0xDD⟩) := by decide
theorem test_pwrOn : sends 0x02000000000 [0x00, 0x00, 0x00, 0x00, 0x00, 0x0F] 0 = true := by decide
theorem test_pwrOff : sends 0x03000000000 [0x00, 0x00, 0x00, 0x00, 0x8F] 0 = true := by decide
theorem test_lockOn : sends 0x04000000000 [0x00, 0x00, 0x00, 0x00, 0x00] 1 = true := by decide
theorem test_lockOff : sends 0x05000000000 [0x00, 0x00, 0x00, 0x00, 0x80] 1 = true := by decide
theorem test_setFreq : sends 0x060029E9FB0 [0x43, 0x95, 0x00, 0x00, 0x01] 1 = true := by decide
theorem test_setFreq_truncates : sends 0x060FFFFFFFF [0x94, 0x96, 0x72, 0x95, 0x01] 1 = true := by decide
theorem test_readFreqMode : sends 0x07000000000 [0x00, 0x00, 0x00, 0x00, 0x03] 5 = true := by decide
theorem test_setMode_eight : sends 0x08000000008 [0x08, 0x00, 0x00, 0x00, 0x07] 1 = true := by decide
theorem test_setMode_range_on_all_bits : ignored 0x08000000100 4 = true := by decide
theorem test_splitOn : sends 0x09000000000 [0x00, 0x00, 0x00, 0x00, 0x02] 1 = true := by decide
theorem test_splitOff : sends 0x0A000000000 [0x00, 0x00, 0x00, 0x00, 0x82] 1 = true := by decide
theorem test_vfoSwap : sends 0x0B000000000 [0x00, 0x00, 0x00, 0x00, 0x81] 1 = true := by decide
theorem test_pttOn : sends 0x0CFFFFFFFFF [0x00, 0x00, 0x00, 0x00, 0x08] 1 = true := by decide
theorem test_pttOff : sends 0x0D000000000 [0x00, 0x00, 0x00, 0x00, 0x88] 1 = true := by decide
theorem test_rptDir_minus : sends 0x0E080000000 [0x09, 0x00, 0x00, 0x00, 0x09] 1 = true := by decide
theorem test_rptDir_simplex : sends 0x0E000000000 [0x89, 0x00, 0x00, 0x00, 0x09] 1 = true := by decide
theorem test_rptOffset_lowest : sends 0x0F080000000 [0x47, 0x48, 0x36, 0x48, 0xF9] 1 = true := by decide
theorem test_rptOffset_negative : sends 0x0F0FFF6D840 [0x00, 0x60, 0x00, 0x00, 0xF9] 1 = true := by decide
theorem test_ctcssEncOn : sends 0x10000000000 [0x4A, 0x00, 0x00, 0x00, 0x0A] 1 = true := by decide
theorem test_ctcssEncOff : sends 0x11000000000 [0x8A, 0x00, 0x00, 0x00, 0x0A] 1 = true := by decide
theorem test_setCtcssFreq : sends 0x12000003039 [0x23, 0x45, 0x00, 0x00, 0x0B] 1 = true := by decide
theorem test_readTxMeters : sends 0x13000000000 [0x00, 0x00, 0x00, 0x00, 0xBD] 1 = true := by decide
theorem test_readTxState : sends 0x14000000000 [0x00, 0x00, 0x00, 0x00, 0xF7] 1 = true := by decide
theorem test_readTxState2 : sends 0x15000000000 [0x00, 0x00, 0x00, 0x00, 0x7E] 1 = true := by decide
theorem test_readRxStatus : sends 0x16000000000 [0x00, 0x00, 0x00, 0x00, 0xE7] 1 = true := by decide
theorem test_readEeprom : sends 0x17012345678 [0x56, 0x78, 0x00, 0x00, 0xBB] 2 = true := by decide
/-- L2.4: the other ignored words. -/
theorem test_ignored :
    ignored 0x18123456789 1 = true ∧ ignored 0x1F123456789 1 = true ∧ ignored 0x0090000007B 2 = true ∧
    ignored 0x00F00000000 2 = true ∧ ignored 0x01512345678 3 = true ∧ ignored 0x01F12345678 3 = true := by decide
/-- 42_commands.md R159: refused without its opcode. -/
theorem test_readTxState2_refused :
    stepOn { lit with cfg := { lit.cfg with opcTxState2 := none } } 0x15000000000 = none := by decide

/-! ## Ports: L2.5 -/

/-- One edge with nothing presented and `rst = 0`. -/
def edge (ready : Bool) : PortIn := ⟨false, false, 0, ready⟩

/-- One edge with a command word presented. -/
def offer (cw : Nat) : PortIn := ⟨false, true, BitVec.ofNat 41 cw, true⟩

def edges (ps : List PortIn) : Option State := nextOf (runEdges ps lit)

/-- V2: after two bytes of SET_MODE 1 the third byte is offered and held through a stall. -/
theorem test_port_stall :
    (edges (offer 0x08000000001 :: List.replicate 2 (edge true) ++ [edge false])).map
        (fun t => (t.wire, (portOut (edge false) t).outByte, (portOut (edge false) t).outValid, (portOut (edge false) t).cmdReady)) =
      some ([0x01, 0x00], 0x00, true, false) := by decide
/-- V1: `done` after the fifth transfer, and for one edge. -/
theorem test_port_done :
    (edges (offer 0x08000000001 :: List.replicate 5 (edge true))).map (fun t => (t.wire, t.done, t.outs, t.busy)) =
      some ([0x01, 0x00, 0x00, 0x00, 0x07], true, ⟨0, 0, 1⟩, false) ∧
    (edges (offer 0x08000000001 :: List.replicate 6 (edge true))).map (fun t => (t.done, t.outs)) =
      some (false, ⟨0, 0, 1⟩) := by decide
/-- V3: ENC completes at acceptance. -/
theorem test_port_enc :
    (edges [offer 0x00800D97010]).map (fun t => (t.wire, t.done, t.outs.result, (portOut (edge true) t).bcdOut, t.busy)) =
      some ([], true, 0x14250000, 0x14250000, false) := by decide
/-- V4: PTT_ON presented while SET_FREQ is emitting waits. -/
theorem test_port_back_pressure :
    (edges (offer 0x06000D97010 :: List.replicate 6 (offer 0x0C000000000) ++ List.replicate 5 (edge true))).map (·.wire) =
      some [0x14, 0x25, 0x00, 0x00, 0x01, 0x00, 0x00, 0x00, 0x00, 0x08] := by decide
/-- V5: reset after two bytes. -/
theorem test_port_reset :
    (edges ([offer 0x06000D97010, edge true, edge true, ⟨true, true, 0x0C000000000, true⟩] ++ List.replicate 5 (edge true))).map
        (fun t => (t.wire, t.bcd, (portOut (edge true) t).cmdReady, t.busy)) =
      some ([0x14, 0x25], ⟨0xAA, 0xBB, 0xCC, 0xDD⟩, true, false) := by decide

/-- A block in the middle of SET_FREQ 14250000, two bytes sent. -/
def emitting : State :=
  { lit with
    busy := true, q := [0x14, 0x25, 0x00, 0x00, 0x01], emitIdx := 2, wire := [0x14, 0x25], held := some ⟨0, 0, 1⟩ }

/-- R230: while `rst` is 1 a busy block offers no byte, and `out_byte` is the free value of log 15. -/
theorem test_port_rst_out_byte :
    (portOut ⟨true, false, 0, true⟩ emitting).outByte = Config.freeOutByte emitting.draws ∧
    (portOut (edge true) emitting).outByte = 0x00 := ⟨rfl, rfl⟩

/-! ## The reader of frames, the assembler, the host side -/

/-- R75: a CTCSS frame and a direction frame read back, and an opcode outside R72 does not. -/
theorem test_readFrame :
    readFrame (benchConfig .literal) (frameOfWord 0x4A0000000A) = some (.ctcssEncOn, []) ∧
    readFrame (benchConfig .literal) (frameOfWord 0x4900000009) = some (.rptDir, [0x49]) ∧
    readFrame (benchConfig .literal) (frameOfWord 0x0000000055) = none := by decide
/-- P6's first line, P2's pseudo-instruction, a refused operand and a comment line (R78, R79). -/
theorem test_assemble :
    assembleLine "SET_FREQ 7074000 ; the first set".toList = .ok [.setFreq 7074000] ∧
    assembleLine "SET_RPT_SHIFT -600000".toList = .ok [.rptDir (-600000), .rptOffset (-600000)] ∧
    assembleLine "DEC 0x14250000, 4".toList = .ok [.dec 0x14250000 4] ∧
    assembleLine "READ_EEPROM 0x10000".toList = .error .doesNotFit ∧
    assembleLine "; nothing".toList = .ok [] := by decide

def hostConfig : HostConfig := { defaultHostConfig with badRead := 4294967295 }

/-- A host at rest over an open transport, on which these bytes arrive, one list for each timed read. -/
def hostWith (arrivals : List (List Byte)) : HostSide where
  block := lit
  hcfg := hostConfig
  transport := { baud := some 1, sent := [], unread := [], arrivals := arrivals }
  mode := (0x55, "")
  freq := 0
  tx := false
  swr := 0
  pwr := 7
  alc := 0
  mod := 0
  wasLocked := false

/-- The same before `begin`. -/
def hostUnopened : HostSide :=
  { hostWith [[0xF0]] with transport := { baud := none, sent := [], unread := [], arrivals := [[0xF0]] } }

/-- What an operation of the host leaves. -/
def hostAfter {α : Type} (r : Except Refusal (α × HostSide)) : Option HostSide :=
  match r with
  | .ok (_, h) => some h
  | .error _ => none

/-- The value an operation of the host answers. -/
def answerOf {α : Type} (r : Except Refusal (α × HostSide)) : Option α :=
  match r with
  | .ok (a, _) => some a
  | .error _ => none

/-- H1. -/
theorem test_lock :
    [[0xF0], [0x00], [0xEF], []].map (fun a => answerOf (setLock true (hostWith [a]))) =
      [some true, some false, some false, some false] ∧
    [[0xF0], [0x00], [0xFF], []].map (fun a => answerOf (setLock false (hostWith [a]))) =
      [some false, some true, some true, some true] := by decide
/-- H2: the second byte may arrive with the first or during the second read. -/
theorem test_txMeters :
    [[[0x00]], [[0xFF]], [[0x5A], [0x3C]], [[0x01, 0xF0]], [[0xFE], [0x00]]].map (fun a => answerOf (readMeters (hostWith a))) =
      [some (some .notTransmitting), some (some .notTransmitting), some (some (.levels 5 10 3 12)),
        some (some (.levels 0 1 15 0)), some (some (.levels 15 14 0 0))] := by decide
/-- H3. -/
theorem test_readFrequency :
    answerOf (readFrequency (hostWith [[0x43, 0x95, 0x00, 0x00, 0x88]])) = some (some ⟨43950000, 0x88, "FMN"⟩) ∧
    answerOf (readFrequency (hostWith [[0x14, 0x25, 0x00, 0x00, 0x05]])) = some (some ⟨14250000, 0x05, ""⟩) ∧
    answerOf (readFrequency (hostWith [[0xFF, 0xFF, 0xFF, 0xFF, 0x01]])) = some (some ⟨166666665, 0x01, "USB"⟩) ∧
    answerOf (readFrequency (hostWith [[0x14, 0x25, 0x00, 0x00]])) = some none := by decide
/-- R183: READ_EEPROM's two bytes, from two reads or one, and a timeout of the second. -/
theorem test_readEeprom_response :
    [[[1], [2]], [[1, 2, 3]], [[1], []]].map (fun a => answerOf (readEepromRaw 0 (hostWith a))) =
      [some [some 1, some 2], some [some 1, some 2], some [some 1, none]] := by decide
/-- R236 item 1: nothing is sent and nothing read over a transport never opened; the block runs as before. -/
theorem test_unopened :
    (hostAfter (setLock false hostUnopened)).map (fun h => (h.transport.sent, h.wasLocked, h.block.wire)) =
      some ([], true, [0x00, 0x00, 0x00, 0x00, 0x80]) ∧
    (hostAfter (setLock false (hostUnopened.beginAt 1))).map (fun h => (h.transport.sent, h.wasLocked)) =
      some ([0x00, 0x00, 0x00, 0x00, 0x80], false) := by decide
/-- H4. -/
theorem test_sMeter :
    [0x00, 0x09, 0x0A, 0x0F, 0x10, 0xFF].map (sMeterLabel hostConfig) = ["S0", "S9", "+10", "+60", "S0", "S0"] := by decide
/-- P6, and its failure when the second read-back times out. -/
theorem test_verified_set :
    answerOf (verifiedSetFreq 7074000 (hostWith [[0], [0x07, 0x07, 0x41, 0x00, 0x02], [0], [0x07, 0x07, 0x40, 0x00, 0x02]])) =
      some true ∧
    answerOf (verifiedSetFreq 7074000 (hostWith [[0], [0x07, 0x07, 0x41, 0x00, 0x02], [0], []])) = some false := by decide

/-! ## Witnesses: a state and operands that meet each obligation's hypotheses, clause by clause at a boundary value -/

/-- The same with one byte left. -/
def lastByte : State := { emitting with emitIdx := 4, wire := [0x14, 0x25, 0x00, 0x00] }

/-- An instance without OPC_TX_STATE2. -/
def bare : State := { lit with cfg := { lit.cfg with opcTxState2 := none } }

theorem witness_DecodeOfEncodeIsIdentity :
    (Instr.enc 4294967295 15).WellFormed ∧ (Instr.rptOffset (-2147483648)).WellFormed ∧ (Instr.readEeprom 65535).WellFormed := by
  decide
theorem witness_DecodedCommandsAreWellFormed : decode 0x01F12345678 = .ok (.dec 0x12345678 15) := by decide
/-- The selector of a word, as the claims write it. -/
def selNumber (w : Nat) : Nat := (BitVec.ofNat 41 w).toNat / 2 ^ 36

/-- The selector hypotheses: the lowest and the highest word of a selector meet each. -/
theorem witness_PowerCommandsEmit : selNumber 0x02000000000 = 0x02 ∧ selNumber 0x03FFFFFFFFF = 0x03 := by decide
theorem witness_LockCommandsEmit : selNumber 0x04000000000 = 0x04 ∧ selNumber 0x05FFFFFFFFF = 0x05 := by decide
theorem witness_SetFreqEmitsEightDigits : selNumber 0x060FFFFFFFF = 0x06 := by decide
theorem witness_ReadFreqModeEmits : selNumber 0x07FFFFFFFFF = 0x07 := by decide
theorem witness_SplitVfoPttCommandsEmit :
    selNumber 0x09000000000 = 0x09 ∧ selNumber 0x0A000000000 = 0x0A ∧ selNumber 0x0B000000000 = 0x0B ∧
    selNumber 0x0CFFFFFFFFF = 0x0C ∧ selNumber 0x0D000000000 = 0x0D := by decide
theorem witness_CtcssCommandsEmit :
    selNumber 0x10000000000 = 0x10 ∧ selNumber 0x11000000000 = 0x11 ∧ selNumber 0x12000003039 = 0x12 := by decide
theorem witness_StatusReadsEmit :
    selNumber 0x13000000000 = 0x13 ∧ selNumber 0x14000000000 = 0x14 ∧ selNumber 0x16000000000 = 0x16 := by decide
theorem witness_ReadEepromEmitsAddress : selNumber 0x17012345678 = 0x17 := by decide
theorem witness_UnusedBitsDoNotMatter :
    ((0x02F00000000 : BitVec 41).toNat / 2 ^ 36 = 2 ∧ argOf 0x02F00000000 = argOf 0x02000000000) ∧
    ((0x17012345678 : BitVec 41).toNat / 2 ^ 36 = 0x17 ∧
      (0x17012345678 : BitVec 41).toNat % 2 ^ 16 = (0x17FFFFF5678 : BitVec 41).toNat % 2 ^ 16) ∧
    (0x0CFFFFFFFFF : BitVec 41).toNat / 2 ^ 36 = (0x0C000000000 : BitVec 41).toNat / 2 ^ 36 ∧
    (0x16FFFFFFFFF : BitVec 41).toNat / 2 ^ 36 = 0x16 ∧
    ((0x01312345678 : BitVec 41).toNat / 2 ^ 36 = 0x01 ∧ (0x01312345678 : BitVec 41).toNat / 2 ^ 32 % 16 = 3 ∧
      (0x01312345678 : BitVec 41).toNat / 2 ^ (32 - 8 * 3) = (0x013123456FF : BitVec 41).toNat / 2 ^ (32 - 8 * 3)) ∧
    (4 < (0x01512345678 : BitVec 41).toNat / 2 ^ 32 % 16 ∧
      (0x01512345678 : BitVec 41).toNat / 2 ^ 32 = (0x01500000000 : BitVec 41).toNat / 2 ^ 32) := by decide
theorem witness_AssembledCommandsAreWellFormed :
    ∃ i, assembleLine "SET_MODE 9".toList = .ok [i] ∧ i ∈ [Instr.setMode 9] := ⟨.setMode 9, by decide, by decide⟩
theorem witness_EncDropsHigherDigits : ∃ t, exec (.enc 4294967295 8) lit = .next t := ⟨_, rfl⟩
theorem witness_EncPacksLowDigits :
    selNumber 0x00F00000000 = 0 ∧
    ignored 0x0090000007B 2 = true ∧ shows lit 0x00805F5E0FF = some ([], ⟨0, 0x99999999, 0⟩, ⟨0x99, 0x99, 0x99, 0x99⟩) ∧
    shows lit 0x0000000007B = some ([], ⟨0, 0xAABBCCDD, 0⟩, ⟨0xAA, 0xBB, 0xCC, 0xDD⟩) := by decide
theorem witness_EncRepeatedWritesTheSame : ∃ t, exec (.enc 123 3) lit = .next t := ⟨_, rfl⟩
theorem witness_DecFoldsLeadingBytes : selNumber 0x01F12345678 = 1 ∧ ignored 0x01512345678 3 = true ∧ (shows lit 0x014FFFFFFFF).isSome = true := by decide
theorem witness_BcdRoundTrip : 99999999 ≤ 99999999 ∧ (8 ≤ 8 ∧ 8 % 2 = 0) ∧ (0 ≤ 8 ∧ 0 % 2 = 0) := by decide
theorem witness_OddDigitCountDecodes : (1 ≤ 8 ∧ 1 % 2 = 1) ∧ (7 ≤ 8 ∧ 7 % 2 = 1) := by decide
theorem witness_SetModeChecksRange : selNumber 0x080FFFFFFFF = 8 ∧ (8 ≤ 8) ∧ (8 < 9) ∧ ignored 0x08000000009 4 = true := by decide
theorem witness_RptDirSelectsBySign : selNumber 0x0E080000000 = 0x0E ∧ (0 : Int) < 1 ∧ (-1 : Int) < 0 ∧ (-2147483648 : Int) < 0 ∧ (0 : Int) = 0 := by decide
theorem witness_RptOffsetEmitsMagnitude :
    selNumber 0x0F07FFFFFFF = 0x0F ∧ ((-2147483648 : Int) = -((2147483648 : Nat) : Int)) ∧ ((2147483647 : Int) = ((2147483647 : Nat) : Int)) ∧
    ((0 : Int) = ((0 : Nat) : Int)) := by decide
theorem witness_ReadTxState2NeedsItsOpcode :
    selNumber 0x15FFFFFFFFF = 0x15 ∧ lit.cfg.opcTxState2 = some 0x7E ∧ bare.cfg.opcTxState2 = none := by decide
theorem witness_EveryFrameEndsInItsOpcode :
    (isCodec .pwrOn = false ∧ causeOf .pwrOn = .ok ∧ ∃ t, exec .pwrOn lit = .next t) ∧
    (isCodec (.setMode 8) = false ∧ causeOf (.setMode 8) = .ok ∧ ∃ t, exec (.setMode 8) lit = .next t) :=
  ⟨⟨rfl, rfl, _, rfl⟩, rfl, by decide, _, rfl⟩
theorem witness_WireBytesPerCommand :
    (∃ t, exec (.setMode 9) lit = .next t) ∧ causeOf (.setMode 9) ≠ .ok ∧ (∃ t, exec .pwrOn lit = .next t) ∧
    causeOf .pwrOn = .ok ∧ ∃ t, exec (.enc 0 8) lit = .next t := ⟨⟨_, rfl⟩, by decide, ⟨_, rfl⟩, rfl, _, rfl⟩
theorem witness_FramesDependOnCommandAndParametersOnly :
    isCodec (.setFreq 1) = false ∧ emitting.cfg = lit.cfg ∧ emitting ≠ lit ∧ ∃ t, exec (.setFreq 1) lit = .next t :=
  ⟨rfl, rfl, by decide, _, rfl⟩
theorem witness_FrameReaderRecoversCommand :
    lit.cfg.WellFormed ∧ ∃ t, exec .ctcssEncOff lit = .next t ∧ t.wire ≠ lit.wire := ⟨by decide, _, rfl, by decide⟩
theorem witness_CompletionCodes :
    (0x18000000000 : BitVec 41).toNat / 2 ^ 36 = 24 ∧
    ((0x0090000007B : BitVec 41).toNat / 2 ^ 36 = 0 ∧ 8 < (0x0090000007B : BitVec 41).toNat / 2 ^ 32 % 16) ∧
    ((0x01512345678 : BitVec 41).toNat / 2 ^ 36 = 1 ∧ 4 < (0x01512345678 : BitVec 41).toNat / 2 ^ 32 % 16) ∧
    ((0x08000000009 : BitVec 41).toNat / 2 ^ 36 = 8 ∧ 8 < (0x08000000009 : BitVec 41).toNat % 2 ^ 32) ∧
    (stepOn lit 0x17012345678).isSome = true ∧ (stepOn lit 0x00805F5E0FF).isSome = true := by decide
theorem witness_EveryCommandWordCompletes : lit.cfg.opcTxState2 ≠ none := by decide
theorem witness_WireHoldsRunsInAcceptanceOrder :
    ∃ t, runWords [0x12000000375, 0x08000000009, 0x0C000000000] lit = .next t ∧
      t.wire = [0x08, 0x85, 0x00, 0x00, 0x0B] ++ [] ++ [0x00, 0x00, 0x00, 0x00, 0x08] := ⟨_, rfl, by decide⟩
theorem witness_StepRunsDecodedCommand :
    lit.busy = false ∧ { lit with inputs := [.command 0x02000000000] }.inputs = .command 0x02000000000 :: [] ∧
    decode 0x02000000000 = .ok .pwrOn ∧ 0x17FFFFFFFFF < 2 ^ 41 ∧
    decode (BitVec.ofNat 41 0x17FFFFFFFFF) = .ok (.readEeprom 0xFFFF) := by decide
theorem witness_PresentedCommandWaitsWhileBusy :
    emitting.busy = true ∧ { emitting with inputs := [.command 0] }.inputs = .command 0 :: [] ∧
    emitting.emitIdx < emitting.q.length ∧ lastByte.emitIdx + 1 = lastByte.q.length := by decide
theorem witness_StepAppendsOnlyLegalBytes :
    (∃ t, step { lit with inputs := [.command 0x07000000000] } = .next t ∧ t.wire ≠ lit.wire) ∧
    (∃ t, step { emitting with inputs := [.edge (edge true)] } = .next t ∧ t.wire ≠ emitting.wire) :=
  ⟨⟨_, rfl, by decide⟩, _, rfl, by decide⟩
theorem witness_OnlyEncWritesBcdBuf :
    (∃ t, step { lit with inputs := [.command 0x00800D97010] } = .next t ∧ t.bcd ≠ lit.bcd) ∧
    (∃ t, step { lit with inputs := [.edge (offer 0x00100000005)] } = .next t ∧ t.bcd ≠ lit.bcd) :=
  ⟨⟨_, rfl, by decide⟩, _, rfl, by decide⟩
theorem witness_ParametersNeverChange : ∃ t, step emitting = .next t := ⟨_, rfl⟩
theorem witness_OnlyTxState2IsRefused :
    step { bare with inputs := [.command 0x15000000000] } = .refused .opcTxState2NotSupplied ∧
    step { bare with inputs := [.edge (offer 0x15000000000)] } = .refused .opcTxState2NotSupplied := ⟨rfl, rfl⟩
theorem witness_StepKeepsInvariant :
    lit.Inv ∧ emitting.Inv ∧ lastByte.Inv ∧ (∃ t, step lit = .next t) ∧
    (∃ t, step { emitting with inputs := [.edge (edge true)] } = .next t) ∧
    ∃ t, step { lastByte with inputs := [.edge (edge true)] } = .next t :=
  ⟨by decide, by decide, by decide, ⟨_, rfl⟩, ⟨_, rfl⟩, _, rfl⟩
theorem witness_AcceptanceLoadsEmitter :
    lit.Idle ∧ (offer 0x02000000000).rst = false ∧ (offer 0x02000000000).cmdValid = true ∧
    (∃ t, runWord (offer 0x02000000000).cmdWord lit = .next t ∧ t.wire ≠ lit.wire) ∧
    ∃ t, runWord (offer 0x00800D97010).cmdWord lit = .next t ∧ t.wire = lit.wire :=
  ⟨by decide, rfl, rfl, ⟨_, rfl, by decide⟩, _, rfl, rfl⟩
theorem witness_ByteTransfer :
    (edge true).rst = false ∧ lit.busy = false ∧ emitting.busy = true ∧ emitting.emitIdx + 1 < emitting.q.length ∧
    lastByte.emitIdx < lastByte.q.length ∧ (edge true).outReady = true ∧ (edge false).outReady = false := by decide
theorem witness_LastTransferCompletes :
    (edge true).rst = false ∧ (edge true).outReady = true ∧ lastByte.busy = true ∧
    lastByte.emitIdx + 1 = lastByte.q.length ∧ lastByte.q[lastByte.emitIdx]? = some 0x01 ∧
    lastByte.held = some ⟨0, 0, 1⟩ := by decide
theorem witness_DoneLastsOneEdge :
    (∃ t, clockEdge (edge true) lastByte = .next t ∧ t.done = true) ∧
    (∃ t, clockEdge (offer 0x00800D97010) lit = .next t ∧ t.done = true) ∧
    ∃ t, clockEdge (offer 0x18000000000) lit = .next t ∧ t.done = true := ⟨⟨_, rfl, rfl⟩, ⟨_, rfl, rfl⟩, _, rfl, rfl⟩
theorem witness_OutputsHeldUntilNextAcceptance :
    (edge true).rst = false ∧ lit.busy = false ∧ (edge true).cmdValid = false ∧ ∃ t, clockEdge (edge true) lit = .next t :=
  ⟨rfl, rfl, rfl, _, rfl⟩
theorem witness_BusyBlockAcceptsNothing : emitting.busy = true ∧ lastByte.busy = true := by decide
theorem witness_BcdOutShowsRegister : ∃ t, exec (.enc 5 8) lit = .next t := ⟨_, rfl⟩
theorem witness_ResetEdgeClearsEmitter : (⟨true, true, 0, true⟩ : PortIn).rst = true ∧ (edge true).rst = false := by decide
theorem witness_ResetState : (edge true).rst = false := rfl
theorem witness_PortsAgreeWithTransactions :
    lit.Idle ∧ noCommand [⟨true, true, 0, true⟩, edge true] = true ∧
    noReset (offer 0x06000D97010 :: List.replicate 5 (edge true)) = true ∧
    (∃ t, runEdges ([⟨true, true, 0, true⟩, edge true] ++ offer 0x06000D97010 :: List.replicate 5 (edge true)) lit = .next t ∧
      t.busy = false ∧
      acceptedWords ([⟨true, true, 0, true⟩, edge true] ++ offer 0x06000D97010 :: List.replicate 5 (edge true)) lit ≠ []) ∧
    ∃ t, runEdges ([] ++ [offer 0x06000D97010]) lit = .next t ∧ t.busy = true :=
  ⟨by decide, by decide, by decide, ⟨_, rfl, rfl, by decide⟩, _, rfl, rfl⟩
theorem witness_AcceptedCommandDrains :
    lit.Idle ∧ (offer 0x02000000000).rst = false ∧ (offer 0x02000000000).cmdValid = true ∧ (edge true).rst = false ∧
    (edge true).outReady = true ∧
    (∃ t, runWord (offer 0x02000000000).cmdWord lit = .next t ∧ t.wire = lit.wire ++ [0x00, 0x00, 0x00, 0x00, 0x00, 0x0F]) ∧
    ∃ t, runWord (offer 0x01414250000).cmdWord lit = .next t ∧ t.wire = lit.wire ++ [] :=
  ⟨by decide, rfl, rfl, rfl, rfl, ⟨_, rfl, by decide⟩, _, rfl, rfl⟩
theorem witness_TransportCarriesEmittedBytes :
    (∃ h', issue .pwrOn hostUnopened = .ok h' ∧ h'.transport.sent = []) ∧
    (∃ h', issue .pwrOn (hostUnopened.beginAt 1) = .ok h' ∧ h'.transport.sent = [0x00, 0x00, 0x00, 0x00, 0x00, 0x0F]) ∧
    hostUnopened.transport.isOpen = false ∧ hostUnopened.transport.bytesAvailable = 0 :=
  ⟨⟨_, rfl, by decide⟩, ⟨_, rfl, by decide⟩, rfl, rfl⟩
theorem witness_ReadsTakeTheStreamInOrder :
    ((hostWith [[1], []]).transport.readBytes 3).1 = [some 1, none] ∧
    ((hostWith [[1, 2, 3, 4, 5, 6]]).transport.readFrequencyAndMode).1 = some (0x01020304, 5) ∧
    ((hostWith [[1, 2, 3, 4]]).transport.readFrequencyAndMode).1 = none := by decide
theorem witness_LockAcknowledgement :
    (hostWith [[0xF0]]).transport.isOpen = true ∧ (hostWith [[0xF0]]).transport.arrivals = [0xF0] :: [] ∧
    (hostWith [[0xF0]]).transport.unread ++ [0xF0] = 0xF0 :: [] ∧ (hostWith [[]]).transport.arrivals = [] :: [] ∧
    (hostWith [[]]).transport.unread ++ [] = [] := by decide
theorem witness_FrequencyAnswerIsUnpacked :
    (hostWith [[0x14, 0x25, 0x00, 0x00, 0x01]]).transport.isOpen = true ∧
    (hostWith [[0x14, 0x25, 0x00, 0x00, 0x01]]).transport.arrivals = [0x14, 0x25, 0x00, 0x00, 0x01] :: [] ∧
    5 ≤ [0x14, 0x25, 0x00, 0x00, 0x01].length ∧ (hostWith [[1, 2, 3, 4]]).transport.arrivals = [1, 2, 3, 4] :: [] ∧
    [1, 2, 3, 4].length < 5 ∧ (hostWith [[1, 2, 3, 4]]).transport.unread = [] := by decide
theorem witness_TxMetersAnswer :
    (hostWith [[0xFE], [0x00]]).transport.isOpen = true ∧ (hostWith [[0xFE], [0x00]]).transport.arrivals = [0xFE] :: [0x00] :: [] ∧
    (hostWith [[], []]).transport.arrivals = [] :: [] :: [] ∧ (hostWith []).transport.unread = [] ∧
    ((0x00 : Byte).toNat = 0) ∧ ((0xFF : Byte).toNat = 255) ∧ ((0x01 : Byte).toNat ≠ 0 ∧ (0xFE : Byte).toNat ≠ 255) ∧
    hostConfig.meterMap = { pwr := .hiS0, alc := .loS0, swr := .hiS1, mod := .loS1 } := by decide
theorem witness_LabelsOfAnswers :
    hostConfig.wf = true ∧ (0x88, ModeName.fmn) ∈ hostConfig.modeCodes ∧ 0x05 ∉ hostConfig.modeCodes.map Prod.fst ∧
    hostConfig.smeterCodes[15]? = some 0x0F ∧ 0x10 ∉ hostConfig.smeterCodes := by decide
theorem witness_RepeaterSequence :
    (hostWith [[0], []]).transport.isOpen = true ∧ (hostWith [[0], []]).transport.arrivals = [0] :: [] :: [] := by decide
theorem witness_VerifiedSetRunsAtMostTwice :
    (hostWith [[0], [0x07, 0x07, 0x41, 0x00, 0x02], [0], [0x07, 0x07, 0x40, 0x00, 0x02]]).transport.isOpen = true ∧
    (hostWith [[0], [0x07, 0x07, 0x41, 0x00, 0x02], [0], [0x07, 0x07, 0x40, 0x00, 0x02]]).transport.arrivals =
      [0] :: [0x07, 0x07, 0x41, 0x00, 0x02] :: [0] :: [0x07, 0x07, 0x40, 0x00, 0x02] :: [] ∧
    decodeBytes ([0x07, 0x07, 0x40, 0x00, 0x02].take 4) = 7074000 ∧
    decodeBytes ([0x07, 0x07, 0x41, 0x00, 0x02].take 4) ≠ 7074000 := by decide
end Sys2Proof.Tests
end

section
/-! The state's invariants (10_state.md): the parameters, who writes `bcd_buf`, the emitter, and `bcd_out`. What a step can do is
said once, in `step_next`; each invariant is proved for a byte transfer, a command, an acceptance and an edge, and then read off
it for the step. -/

namespace Sys2Proof.Machine

variable {s t : State} {cw : CmdWord} {p : PortIn}

/-! ## What a step can do -/

/-- One step, all it can do (R117, R122 to R125; logs 2, 13, 14). -/
theorem step_next (h : step s = .next t) :
    (s.inputs = [] ∧ t = { s with done := false }) ∨
    (∃ cw rest, s.inputs = .command cw :: rest ∧ s.busy = true ∧ t = transferByte s) ∨
    (∃ cw rest, s.inputs = .command cw :: rest ∧ s.busy = false ∧ runWord cw { s with inputs := rest } = .next t) ∨
    (∃ p rest, s.inputs = .edge p :: rest ∧ clockEdge p { s with inputs := rest } = .next t) := by
  simp only [step, runInput] at h
  split at h
  case h_1 hin => exact .inl ⟨hin, (Host.Outcome.next.inj h).symm⟩
  case h_2 cw rest hin =>
    split at h
    case isTrue hb => exact .inr (.inl ⟨cw, rest, hin, hb, (Host.Outcome.next.inj h).symm⟩)
    case isFalse hb => exact .inr (.inr (.inl ⟨cw, rest, hin, by simpa using hb, h⟩))
  case h_3 p rest hin => exact .inr (.inr (.inr ⟨p, rest, hin, h⟩))

theorem not_busy_of_accepts (h : accepts p s = true) : s.busy = false := by
  simp only [accepts, Bool.and_eq_true, Bool.not_eq_true'] at h
  exact h.2

/-! ## The parameters (R27) -/

@[simp] theorem transferByte_cfg (s : State) : (transferByte s).cfg = s.cfg := by
  simp only [transferByte]
  split <;> rfl

theorem runWord_cfg (h : runWord cw s = .next t) : t.cfg = s.cfg := by
  obtain ⟨_, _, _, rfl, _⟩ := runWord_next h
  rfl

theorem acceptWord_cfg (h : acceptWord cw s = .next t) : t.cfg = s.cfg := by
  obtain ⟨u, out, hu, -, ⟨-, rfl⟩ | ⟨-, -, rfl⟩⟩ := acceptWord_next h
  · exact runWord_cfg hu
  · exact (runWord_cfg hu : u.cfg = s.cfg)

theorem clockEdge_cfg (h : clockEdge p s = .next t) : t.cfg = s.cfg := by
  obtain ⟨-, rfl⟩ | ⟨-, -, -, rfl⟩ | ⟨-, -, -, rfl⟩ | ⟨-, ha⟩ | ⟨-, -, -, rfl⟩ := clockEdge_next h
  · exact resetBlock_cfg s
  · exact transferByte_cfg s
  · rfl
  · exact acceptWord_cfg ha
  · rfl

/-- Settles O37, by the cases of a step: none of them writes `cfg`. -/
theorem parametersNeverChange : Obligations.ParametersNeverChange := by
  intro s t h
  obtain ⟨-, rfl⟩ | ⟨_, _, -, -, rfl⟩ | ⟨_, rest, -, -, hr⟩ | ⟨_, rest, -, he⟩ := step_next h
  · rfl
  · exact transferByte_cfg s
  · exact runWord_cfg (s := { s with inputs := rest }) hr
  · exact clockEdge_cfg (s := { s with inputs := rest }) he

/-! ## Who writes `bcd_buf` (R21) -/

@[simp] theorem transferByte_bcd (s : State) : (transferByte s).bcd = s.bcd := by
  simp only [transferByte]
  split <;> rfl

theorem sendBytes_bcd {bs : List Byte} {n : BitVec 3} (h : sendBytes bs n s = .next t) : t.bcd = s.bcd := by
  cases h
  rfl

/-- ENC of no digits writes nothing (R92). -/
@[simp] theorem encReg_zero (pol : OddNibblePolicy) (v : Nat) (r : BcdReg) : encReg pol v 0 r = r := rfl

/-- A command leaves `bcd_buf` as it is, unless it is ENC of 1 to 8 digits. -/
theorem exec_bcd {i : Instr} (h : exec i s = .next t) :
    t.bcd = s.bcd ∨ ∃ v n, i = .enc v n ∧ 1 ≤ n ∧ n ≤ 8 := by
  cases i
  case enc v n =>
    by_cases hn : 1 ≤ n ∧ n ≤ 8
    · exact .inr ⟨v, n, rfl, hn⟩
    · left
      obtain rfl | hover : n = 0 ∨ 8 < n := by omega
      · cases (execEnc_legal (Nat.zero_le 8) v s).symm.trans h
        simp
      · cases (execEnc_over hover v s).symm.trans h
        rfl
  case dec w k =>
    simp only [exec, execDec] at h
    split at h <;> cases h <;> exact .inl rfl
  case setMode m =>
    simp only [exec, execSetMode] at h
    split at h
    · cases h
      exact .inl rfl
    · exact .inl (sendBytes_bcd h)
  case readTxState2 =>
    simp only [exec, execReadTxState2] at h
    split at h
    · exact .inl (sendBytes_bcd h)
    · cases h
  all_goals exact .inl (sendBytes_bcd h)

/-- A command word that changes `bcd_buf` decodes to ENC of 1 to 8 digits. -/
theorem decode_of_runWord_bcd_ne (h : runWord cw s = .next t) (hne : t.bcd ≠ s.bcd) :
    ∃ v n, 1 ≤ n ∧ n ≤ 8 ∧ decode cw = .ok (.enc v n) := by
  simp only [runWord] at h
  split at h
  case h_1 i hd =>
    obtain ⟨v, n, rfl, h1, h8⟩ := (exec_bcd h).resolve_left hne
    exact ⟨v, n, h1, h8, hd⟩
  case h_2 =>
    cases h
    exact absurd rfl hne

/-- Acceptance leaves the `bcd_buf` that the word's transaction leaves (R122). -/
theorem acceptWord_bcd (h : acceptWord cw s = .next t) : ∃ u, runWord cw s = .next u ∧ t.bcd = u.bcd := by
  obtain ⟨u, out, hu, -, ⟨-, rfl⟩ | ⟨-, -, rfl⟩⟩ := acceptWord_next h <;> exact ⟨_, hu, rfl⟩

/-- An edge that changes `bcd_buf` accepted ENC of 1 to 8 digits; a reset edge keeps `bcd_buf` (log 9). -/
theorem accepts_of_clockEdge_bcd_ne (h : clockEdge p s = .next t) (hne : t.bcd ≠ s.bcd) :
    accepts p s = true ∧ ∃ v n, 1 ≤ n ∧ n ≤ 8 ∧ decode p.cmdWord = .ok (.enc v n) := by
  obtain ⟨-, rfl⟩ | ⟨-, -, -, rfl⟩ | ⟨-, -, -, rfl⟩ | ⟨hacc, ha⟩ | ⟨-, -, -, rfl⟩ := clockEdge_next h
  · exact absurd (resetBlock_bcd s) hne
  · exact absurd (transferByte_bcd s) hne
  · exact absurd rfl hne
  · obtain ⟨u, hu, hbcd⟩ := acceptWord_bcd ha
    exact ⟨hacc, decode_of_runWord_bcd_ne hu (hbcd ▸ hne)⟩
  · exact absurd rfl hne

/-- Settles O36, by the cases of a step: only a transaction and an accepting edge run a command, and of the commands only ENC
of 1 to 8 digits writes the register. -/
theorem onlyEncWritesBcdBuf : Obligations.OnlyEncWritesBcdBuf := by
  intro s t h hne
  obtain ⟨-, rfl⟩ | ⟨_, _, -, -, rfl⟩ | ⟨cw, rest, hin, hb, hr⟩ | ⟨p, rest, hin, he⟩ := step_next h
  · exact absurd rfl hne
  · exact absurd (transferByte_bcd s) hne
  · obtain ⟨v, n, h1, h8, hd⟩ := decode_of_runWord_bcd_ne hr hne
    exact ⟨hb, v, n, h1, h8, .inl ⟨cw, rest, hin, hd⟩⟩
  · obtain ⟨hacc, v, n, h1, h8, hd⟩ := accepts_of_clockEdge_bcd_ne he hne
    exact ⟨not_busy_of_accepts hacc, v, n, h1, h8, .inr ⟨p, rest, hin, hacc, hd⟩⟩

/-! ## The machine's invariant (R24, R25, R72, R113, R211) -/

/-- What the invariant says of a busy block: the part of `State.EmitterOk` about a command in progress. -/
abbrev State.Running (s : State) : Prop :=
  s.emitIdx < s.q.length ∧ isRun s.cfg s.q = true ∧ s.done = false ∧
    (s.held.map fun o => (o.status, o.result)) = some (0, 0) ∧ s.q.take s.emitIdx <:+ s.wire

theorem State.Inv.wf (hi : s.Inv) : s.cfg.WellFormed := hi.1

theorem State.Inv.idle (hi : s.Inv) (hb : s.busy = false) : s.Idle := ⟨hb, hi.2.1.1 hb⟩

theorem State.Inv.running (hi : s.Inv) (hb : s.busy = true) : s.Running := hi.2.1.2 hb

theorem State.Inv.of_idle (hc : s.cfg.WellFormed) (hs : s.Idle) (hd : s.done = true → s.outs.status.toNat ≤ 4) : s.Inv :=
  ⟨hc, ⟨fun _ => hs.2, by simp [hs.1]⟩, hd⟩

theorem State.Inv.of_running (hc : s.cfg.WellFormed) (hb : s.busy = true) (hr : s.Running) : s.Inv := by
  have hd : s.done = false := hr.2.2.1
  exact ⟨hc, ⟨by simp [hb], fun _ => hr⟩, by simp [hd]⟩

/-- The invariant does not speak of `done` where it is low. -/
theorem State.Inv.withoutDone (hi : s.Inv) : State.Inv { s with done := false } := by
  rcases Bool.eq_false_or_eq_true s.busy with hb | hb
  · obtain ⟨hlt, hrun, -, hheld, hwire⟩ := hi.running hb
    exact .of_running hi.wf hb ⟨hlt, hrun, rfl, hheld, hwire⟩
  · exact .of_idle hi.wf (hi.idle hb) (by simp)

theorem resetBlock_inv (hi : s.Inv) : (resetBlock s).Inv :=
  .of_idle hi.wf ⟨rfl, rfl, rfl, rfl⟩ (by simp)

/-- The byte at `emit_idx` joins the bytes already transferred: the first `emit_idx + 1` bytes are now the wire's last. -/
theorem take_succ_suffix {α : Type} {q w : List α} {n : Nat} (h : q.take n <:+ w) :
    q.take (n + 1) <:+ w ++ q[n]?.toList := by
  obtain ⟨pre, rfl⟩ := h
  exact ⟨pre, by rw [List.take_add_one, List.append_assoc]⟩

theorem transferByte_inv (hi : s.Inv) (hb : s.busy = true) : (transferByte s).Inv := by
  obtain ⟨hlt, hrun, -, hheld, hwire⟩ := hi.running hb
  rcases Nat.lt_or_ge (s.emitIdx + 1) s.q.length with hmid | hlast
  · rw [transferByte_middle hmid]
    exact .of_running hi.wf hb ⟨hmid, hrun, rfl, hheld, take_succ_suffix hwire⟩
  · rw [transferByte_last hlast]
    obtain ⟨o, ho, hzero⟩ := Option.map_eq_some_iff.mp hheld
    have hstatus : o.status = 0 := congrArg Prod.fst hzero
    exact .of_idle hi.wf ⟨rfl, rfl, rfl, rfl⟩ (by simp [ho, hstatus])

/-- A command word run by an idle block leaves the emitter idle and completes with a code of R211. -/
theorem runWord_inv (hi : s.Inv) (hb : s.busy = false) (h : runWord cw s = .next t) : t.Inv := by
  obtain ⟨r, out, o, rfl, hstatus, -⟩ := runWord_next h
  exact .of_idle hi.wf (hi.idle hb) fun _ => hstatus

/-- Acceptance of a command that emits loads a legal run, none of it transferred, and holds an OK completion. -/
theorem acceptWord_inv (hi : s.Inv) (hb : s.busy = false) (h : acceptWord cw s = .next t) : t.Inv := by
  obtain ⟨u, out, hu, hwire, ⟨-, rfl⟩ | ⟨hne, hrun, rfl⟩⟩ := acceptWord_next h
  · exact runWord_inv hi hb hu
  · have hcfg : u.cfg = s.cfg := runWord_cfg hu
    obtain ⟨r, out', o, rfl, -, hcase⟩ := runWord_next hu
    obtain rfl : out' = out := List.append_cancel_left hwire
    obtain ⟨-, -, hstatus, hresult⟩ := hcase.resolve_left hne
    exact .of_running hi.wf rfl
      ⟨List.length_pos_iff.mpr hne, hrun, rfl, by simp [hstatus, hresult], List.nil_suffix⟩

theorem clockEdge_inv (hi : s.Inv) (h : clockEdge p s = .next t) : t.Inv := by
  obtain ⟨-, rfl⟩ | ⟨-, hb, -, rfl⟩ | ⟨-, -, -, rfl⟩ | ⟨hacc, ha⟩ | ⟨-, -, -, rfl⟩ := clockEdge_next h
  · exact resetBlock_inv hi
  · exact transferByte_inv hi hb
  · exact hi.withoutDone
  · exact acceptWord_inv hi (not_busy_of_accepts hacc) ha
  · exact hi.withoutDone

/-- Settles O39, by the cases of a step. The invariant does not speak of `inputs`, so that taking the input away keeps it. -/
theorem stepKeepsInvariant : Obligations.StepKeepsInvariant := by
  intro s t hi h
  obtain ⟨-, rfl⟩ | ⟨_, _, -, hb, rfl⟩ | ⟨_, rest, -, hb, hr⟩ | ⟨_, rest, -, he⟩ := step_next h
  · exact hi.withoutDone
  · exact transferByte_inv hi hb
  · exact runWord_inv (s := { s with inputs := rest }) hi hb hr
  · exact clockEdge_inv (s := { s with inputs := rest }) hi he

/-! ## The output `bcd_out` (R22, R44) -/

/-- Settles O41: the port shows `bcdOut`, whose bytes add up, and ENC completes with `bcdOut` of the register it writes. -/
theorem bcdOutShowsRegister : Obligations.BcdOutShowsRegister := by
  intro p s
  exact ⟨bcdOut_toNat s.bcd, fun v n hn => ⟨_, execEnc_legal hn v s, rfl⟩⟩

end Sys2Proof.Machine
end

section
/-! The wire (20_memory.md): what each step appends to it, and that over a list of command words it holds their runs in acceptance
order. -/

namespace Sys2Proof.Machine

variable {s t u : State} {cw : CmdWord} {p : PortIn}

/-! ## The wire after a byte transfer, an acceptance, a command word and an edge -/

/-- A transfer appends the byte at `emit_idx`, if there is one (R123). -/
@[simp] theorem transferByte_wire (s : State) : (transferByte s).wire = s.wire ++ (s.q[s.emitIdx]?).toList := by
  simp only [transferByte]
  split <;> rfl

theorem transferByte_wire_cases (s : State) :
    (transferByte s).wire = s.wire ∨ ∃ b, s.q[s.emitIdx]? = some b ∧ (transferByte s).wire = s.wire ++ [b] := by
  rw [transferByte_wire]
  cases s.q[s.emitIdx]? with
  | none => exact .inl (List.append_nil _)
  | some b => exact .inr ⟨b, rfl, rfl⟩

/-- Acceptance loads the emitter and puts nothing on the wire (R122). -/
theorem acceptWord_wire (h : acceptWord cw s = .next t) : t.wire = s.wire := by
  obtain ⟨u, out, -, hwire, ⟨rfl, rfl⟩ | ⟨-, -, rfl⟩⟩ := acceptWord_next h
  · rwa [List.append_nil] at hwire
  · rfl

/-- At the transaction level a command word puts nothing or one legal run on the wire (R48, R77). -/
theorem runWord_wire_cases (h : runWord cw s = .next t) :
    t.wire = s.wire ∨ ∃ run, isRun s.cfg run = true ∧ t.wire = s.wire ++ run := by
  obtain ⟨r, out, o, rfl, -, rfl | ⟨hrun, -⟩⟩ := runWord_next h
  · exact .inl (List.append_nil _)
  · exact .inr ⟨out, hrun, rfl⟩

/-- Of all an edge can do, only a byte transfer writes the wire (R123). -/
theorem clockEdge_wire_cases (h : clockEdge p s = .next t) :
    t.wire = s.wire ∨ (s.busy = true ∧ t = transferByte s) := by
  obtain ⟨-, rfl⟩ | ⟨-, hb, -, rfl⟩ | ⟨-, -, -, rfl⟩ | ⟨-, ha⟩ | ⟨-, -, -, rfl⟩ := clockEdge_next h
  · exact .inl (resetBlock_wire s)
  · exact .inr ⟨hb, rfl⟩
  · exact .inl rfl
  · exact .inl (acceptWord_wire ha)
  · exact .inl rfl

/-- Settles O35, by the cases of a step: a busy block transfers a byte, an idle one runs a whole command word at the transaction
level, and an edge writes the wire only where it transfers a byte. -/
theorem stepAppendsOnlyLegalBytes : Obligations.StepAppendsOnlyLegalBytes := by
  intro s t h
  obtain ⟨-, rfl⟩ | ⟨_, _, -, hb, rfl⟩ | ⟨_, rest, -, hb, hr⟩ | ⟨_, rest, -, he⟩ := step_next h
  · exact .inl rfl
  · exact (transferByte_wire_cases s).imp_right fun hbyte => .inl ⟨hb, hbyte⟩
  · exact (runWord_wire_cases (s := { s with inputs := rest }) hr).imp_right fun hrun => .inr ⟨hb, hrun⟩
  · obtain hsame | ⟨hb, rfl⟩ := clockEdge_wire_cases he
    · exact .inl hsame
    · exact (transferByte_wire_cases { s with inputs := rest }).imp_right fun hbyte => .inl ⟨hb, hbyte⟩

/-! ## What a command word emits depends on the word and the parameters alone (R119) -/

/-- From two states of one instance a command puts the same bytes on the wire. -/
theorem exec_emits_same {i : Instr} (h : exec i s = .next t) (hcfg : u.cfg = s.cfg) :
    ∃ v out, exec i u = .next v ∧ t.wire = s.wire ++ out ∧ v.wire = u.wire ++ out := by
  obtain ⟨c, _, _, _, _, _, _, _, _, _, _⟩ := u
  obtain rfl : c = s.cfg := hcfg
  cases i
  case enc v n =>
    rcases Nat.lt_or_ge 8 n with hn | hn
    · cases (execEnc_over hn v s).symm.trans h
      exact ⟨_, [], execEnc_over hn v _, by simp, by simp⟩
    · cases (execEnc_legal hn v s).symm.trans h
      exact ⟨_, [], execEnc_legal hn v _, by simp, by simp⟩
  case dec w k =>
    rcases Nat.lt_or_ge 4 k with hk | hk
    · cases (execDec_over hk w s).symm.trans h
      exact ⟨_, [], execDec_over hk w _, by simp, by simp⟩
    · cases (execDec_legal hk w s).symm.trans h
      exact ⟨_, [], execDec_legal hk w _, by simp, by simp⟩
  case setMode m =>
    rcases Nat.lt_or_ge 8 m with hm | hm
    · cases (execSetMode_over hm s).symm.trans h
      exact ⟨_, [], execSetMode_over hm _, by simp, by simp⟩
    · cases (execSetMode_legal hm s).symm.trans h
      exact ⟨_, _, execSetMode_legal hm _, rfl, rfl⟩
  case readTxState2 =>
    simp only [exec, execReadTxState2] at h ⊢
    cases hopc : s.cfg.opcTxState2 with
    | none => simp [hopc] at h
    | some opc =>
      rw [hopc] at h
      cases h
      exact ⟨_, _, rfl, rfl, rfl⟩
  all_goals
    cases h
    exact ⟨_, _, rfl, rfl, rfl⟩

theorem runWord_emits_same (h : runWord cw s = .next t) (hcfg : u.cfg = s.cfg) :
    ∃ v out, runWord cw u = .next v ∧ t.wire = s.wire ++ out ∧ v.wire = u.wire ++ out := by
  simp only [runWord] at h ⊢
  split at h
  · exact exec_emits_same h hcfg
  · cases h
    exact ⟨_, [], rfl, by simp, by simp⟩

/-- From every state of the instance `c` the word `cw` completes and puts `out` on the wire. -/
def Emits (c : Config) (cw : CmdWord) (out : List Byte) : Prop :=
  ∀ u : State, u.cfg = c → ∃ v, runWord cw u = .next v ∧ v.wire = u.wire ++ out

theorem runWord_emits (h : runWord cw s = .next t) : ∃ out, t.wire = s.wire ++ out ∧ Emits s.cfg cw out := by
  obtain ⟨_, out, _, rfl, -⟩ := runWord_next h
  refine ⟨out, rfl, fun u hcfg => ?_⟩
  obtain ⟨v, out', hv, hsame, hwire⟩ := runWord_emits_same h hcfg
  obtain rfl : out = out' := List.append_cancel_left hsame
  exact ⟨v, hv, hwire⟩

/-! ## The wire over a list of command words (R46, R48, R49) -/

/-- A list of command words completes one word at a time. -/
theorem runWords_cons_next {cws : List CmdWord} (h : runWords (cw :: cws) s = .next t) :
    ∃ m, runWord cw s = .next m ∧ runWords cws m = .next t := by
  simp only [runWords] at h
  split at h
  case h_1 m hm => exact ⟨m, hm, h⟩
  all_goals cases h

/-- Settles O32, by induction on the list of words: the first word's run stands first, and the rest runs in the same
instance. -/
theorem wireHoldsRunsInAcceptanceOrder : Obligations.WireHoldsRunsInAcceptanceOrder := by
  intro cws
  induction cws with
  | nil =>
    intro s t h
    cases h
    exact ⟨[], by simp⟩
  | cons cw cws ih =>
    intro s t h
    obtain ⟨m, hword, hrest⟩ := runWords_cons_next h
    obtain ⟨out, hout, hemits⟩ := runWord_emits hword
    obtain ⟨outs, hlen, houts, hall⟩ := ih m t hrest
    rw [runWord_cfg hword] at hall
    refine ⟨out :: outs, by simp [hlen], by simp [houts, hout], ?_⟩
    rw [List.zip_cons_cons]
    exact List.forall_mem_cons.mpr ⟨hemits, hall⟩

end Sys2Proof.Machine
end

section
/-! The command word (30_encoding.md R60 to R64, R78, R79): encoding and decoding undo each other, and which bits of a word
matter. -/

namespace Sys2Proof.Machine

variable {cw cw' : CmdWord}

/-- Settles O3: the encoder packs a command's operands into fields that hold them whole, and the decoder reads the fields
packed, so that of each operand shape only its field's round trip is left. -/
theorem decodeOfEncodeIsIdentity : Obligations.DecodeOfEncodeIsIdentity := by
  intro i hi
  cases i
  case enc v n =>
    obtain ⟨hv, hn⟩ : fitsArg v = true ∧ fitsAux n = true := Bool.and_eq_true_iff.mp hi
    simp [encode, decode, uint32_ofNat v hv, auxField_ofNat n hn, -BitVec.toNat_ofNat]
  case dec w k => simp [encode, decode, auxField_ofNat k hi, -BitVec.toNat_ofNat]
  case setFreq f => simp [encode, decode, uint32_ofNat f hi]
  case setMode m => simp [encode, decode, uint32_ofNat m hi]
  case setCtcssFreq t => simp [encode, decode, uint32_ofNat t hi]
  case rptDir o => simp [encode, decode, sint32_ofInt o hi]
  case rptOffset o => simp [encode, decode, sint32_ofInt o hi]
  case readEeprom a => simp [encode, decode, addrField_ofNat a hi, -BitVec.extractLsb'_toNat]
  all_goals simp [encode, decode]

/-- Settles O2, by the value of a packed word and the three fields read from it. -/
theorem commandWordFieldsReadBack : Obligations.CommandWordFieldsReadBack := fun sel aux arg =>
  ⟨packWord_toNat sel aux arg, selOf_packWord sel aux arg, auxOf_packWord sel aux arg, argOf_packWord sel aux arg⟩

/-! ## What is read from a field fits it (R78) -/

theorem fitsArg_uint32 (w : Word) : fitsArg (uint32 w) = true := decide_eq_true w.isLt

theorem fitsAux_toNat (n : BitVec 4) : fitsAux n.toNat = true := decide_eq_true n.isLt

theorem fitsSigned_sint32 (w : Word) : fitsSigned (sint32 w) = true :=
  Bool.and_eq_true_iff.mpr ⟨decide_eq_true w.le_toInt, decide_eq_true w.toInt_lt⟩

theorem fitsAddr_toNat (a : BitVec 16) : fitsAddr a.toNat = true := decide_eq_true a.isLt

/-- Settles O4, by the decoder's rows: each operand is read from the field it has to fit. -/
theorem decodedCommandsAreWellFormed : Obligations.DecodedCommandsAreWellFormed := by
  intro cw i h
  unfold decode at h
  split at h <;> cases h
  case h_1 => exact Bool.and_eq_true_iff.mpr ⟨fitsArg_uint32 _, fitsAux_toNat _⟩
  case h_2 => exact fitsAux_toNat _
  case h_7 | h_9 | h_19 => exact fitsArg_uint32 _
  case h_15 | h_16 => exact fitsSigned_sint32 _
  case h_24 => exact fitsAddr_toNat _
  all_goals rfl

/-! ## Which bits of a word matter (R63, R64) -/

/-- A word decodes by its selector and the fields which that selector's command uses. -/
theorem decode_congr (hsel : selOf cw = selOf cw') (haux : (selOf cw).toNat < 2 → auxOf cw = auxOf cw')
    (harg : (selOf cw).toNat ∈ [0x00, 0x01, 0x06, 0x08, 0x0E, 0x0F, 0x12] → argOf cw = argOf cw')
    (haddr : (selOf cw).toNat = 0x17 → (argOf cw).extractLsb' 0 16 = (argOf cw').extractLsb' 0 16) :
    decode cw = decode cw' := by
  simp only [decode, ← hsel]
  split
  case h_1 h | h_2 h => rw [haux (by omega), harg (by simp [h])]
  case h_7 h | h_9 h | h_15 h | h_16 h | h_19 h => rw [harg (by simp [h])]
  case h_24 h => rw [haddr h]
  all_goals rfl

theorem selOf_congr (h : cw.toNat / 2 ^ 36 = cw'.toNat / 2 ^ 36) : selOf cw = selOf cw' := by
  apply BitVec.eq_of_toNat_eq
  rw [selOf_toNat, selOf_toNat, h]

theorem auxOf_congr (h : cw.toNat / 2 ^ 32 = cw'.toNat / 2 ^ 32) : auxOf cw = auxOf cw' := by
  apply BitVec.eq_of_toNat_eq
  rw [auxOf_toNat, auxOf_toNat, h]

theorem addrOf_congr (h : cw.toNat % 2 ^ 16 = cw'.toNat % 2 ^ 16) :
    (argOf cw).extractLsb' 0 16 = (argOf cw').extractLsb' 0 16 := by
  apply BitVec.eq_of_toNat_eq
  rw [addrOf_toNat, addrOf_toNat, h]

/-- Numbers that agree from bit m up agree from a higher bit up. -/
theorem div_two_pow_congr {a b m n : Nat} (hmn : m ≤ n) (h : a / 2 ^ m = b / 2 ^ m) : a / 2 ^ n = b / 2 ^ n := by
  obtain ⟨d, rfl⟩ := Nat.exists_eq_add_of_le hmn
  rw [Nat.pow_add, ← Nat.div_div_eq_div_mul, ← Nat.div_div_eq_div_mul, h]

/-- Words that agree from bit m of `arg` up have operands that do. -/
theorem argOf_div_congr {m : Nat} (hm : m ≤ 32) (h : cw.toNat / 2 ^ m = cw'.toNat / 2 ^ m) :
    (argOf cw).toNat / 2 ^ m = (argOf cw').toNat / 2 ^ m := by
  obtain ⟨d, hd⟩ := Nat.exists_eq_add_of_le hm
  rw [argOf_toNat, argOf_toNat, hd, Nat.pow_add, Nat.mod_mul_right_div_self, Nat.mod_mul_right_div_self, h]

theorem wordBytes_eq_map (w : Word) :
    wordBytes w = (List.range 4).map fun i => BitVec.ofNat 8 (w.toNat / 2 ^ (24 - 8 * i)) := by
  simp [wordBytes, List.range_succ, ← BitVec.toNat_inj, Nat.shiftRight_eq_div_pow]

/-- The leading k bytes of a word are its bits [31:32-8k]. -/
theorem take_wordBytes_congr {w w' : Word} {k : Nat} (hk : k ≤ 4)
    (h : w.toNat / 2 ^ (32 - 8 * k) = w'.toNat / 2 ^ (32 - 8 * k)) : (wordBytes w).take k = (wordBytes w').take k := by
  simp only [wordBytes_eq_map, ← List.map_take, List.take_range, List.map_inj_left, List.mem_range]
  intro i hi
  rw [div_two_pow_congr (by omega) h]

/-- Of its word operand DEC reads the leading k bytes of a legal count k, and nothing of any other count (R95). -/
theorem execDec_congr {w w' : Word} {k : Nat} (h : k ≤ 4 → (wordBytes w).take k = (wordBytes w').take k) (s : State) :
    execDec w k s = execDec w' k s := by
  rcases Nat.lt_or_ge 4 k with hk | hk
  · rw [execDec_over hk, execDec_over hk]
  · rw [execDec_legal hk, execDec_legal hk, h hk]

theorem runWord_dec (h : (selOf cw).toNat = 0x01) (s : State) :
    runWord cw s = execDec (argOf cw) (auxOf cw).toNat s := by
  simp only [runWord, decode, h, exec]

/-- DEC words run alike when they agree in `aux` and in the leading bytes which a legal count makes DEC read. -/
theorem runWord_dec_congr (hsel : selOf cw = selOf cw') (hdec : (selOf cw).toNat = 0x01) (haux : auxOf cw = auxOf cw')
    (harg : (auxOf cw).toNat ≤ 4 →
      (wordBytes (argOf cw)).take (auxOf cw).toNat = (wordBytes (argOf cw')).take (auxOf cw).toNat)
    (s : State) : runWord cw s = runWord cw' s := by
  rw [runWord_dec hdec, runWord_dec (hsel ▸ hdec), ← haux, execDec_congr harg]

/-- Settles O5: what a word decodes to depends on the fields its selector uses, and the run of DEC on the bytes its count
reads. -/
theorem unusedBitsDoNotMatter : Obligations.UnusedBitsDoNotMatter := by
  intro cw cw' h
  have hsel := selOf_congr h
  rw [← selOf_toNat, ← auxOf_toNat]
  refine ⟨fun hge harg => ?_, fun h17 haddr => ?_, fun hmem => ?_, ?_, ?_⟩
  · exact decode_congr hsel (fun hlt => absurd hlt (Nat.not_lt.mpr hge)) (fun _ => harg) fun _ => congrArg _ harg
  · exact decode_congr hsel (by simp [h17]) (by simp [h17]) fun _ => addrOf_congr haddr
  · simp only [List.mem_cons, List.not_mem_nil, or_false] at hmem
    refine decode_congr hsel (fun huse => ?_) (fun huse => ?_) fun huse => ?_
    · omega
    · simp only [List.mem_cons, List.not_mem_nil, or_false] at huse
      omega
    · omega
  · rintro k hdec hk rfl harg s
    refine runWord_dec_congr hsel hdec (auxOf_congr (div_two_pow_congr (Nat.sub_le _ _) harg)) (fun _ => ?_) s
    exact take_wordBytes_congr hk (argOf_div_congr (Nat.sub_le _ _) harg)
  · intro hdec hk haux s
    exact runWord_dec_congr hsel hdec (auxOf_congr haux) (fun hle => absurd hk (Nat.not_lt.mpr hle)) s

/-! ## Words of the test vectors, and the assembler (R78, R79) -/

/-- Settles O1, by running the decoder on each word. -/
theorem specWordsDecode : Obligations.SpecWordsDecode := by
  unfold Obligations.SpecWordsDecode
  decide

/-- ENC of eight digits of 0 writes a zero byte into every place of the register (R79). -/
theorem encReg_clear (pol : OddNibblePolicy) (r : BcdReg) : encReg pol 0 8 r = ⟨0x00, 0x00, 0x00, 0x00⟩ := rfl

/-- Settles O6: the two expansions are the assembler's own rows, and the ENC of BCD_CLEAR has a legal count and clears the
register. -/
theorem pseudoInstructionsExpand : Obligations.PseudoInstructionsExpand :=
  ⟨rfl, fun s => ⟨_, execEnc_legal (Nat.le_refl 8) 0 s, encReg_clear s.cfg.oddNibblePolicy s.bcd⟩, fun _ => rfl⟩

/-- Settles O7, by the outcomes of a line: an empty one gives no command, and any other answers only behind the check of every
command it built. -/
theorem assembledCommandsAreWellFormed : Obligations.AssembledCommandsAreWellFormed := by
  intro line is h i hi
  simp only [assembleLine] at h
  split at h
  case h_1 =>
    cases h
    cases hi
  case h_2 =>
    split at h
    case h_1 => cases h
    case h_2 =>
      split at h
      case h_1 => cases h
      case h_2 =>
        split at h
        case isTrue hwf =>
          cases h
          exact List.all_eq_true.mp hwf i hi
        case isFalse => cases h

end Sys2Proof.Machine
end

section
/-! Frames (41_frame_builder.md R110 to R116): what each command puts on the wire, how many bytes that is, and that the frame
reader of 30_encoding.md R75 tells the frames apart. -/

namespace Sys2Proof.Machine

variable {c : Config} {i : Instr} {s t : State} {opc : Byte}

/-! ## What a command puts on the wire -/

/-- The four bytes before the opcode in the frame of a framed command (R114 to R116). -/
def frameData (c : Config) : Instr → List Byte
  | .setFreq f => bcdBytes f 8
  | .setMode m => modeByte m :: pre3
  | .rptDir o => directionCode c o :: pre3
  | .rptOffset o => bcdBytes (magnitude o) 8
  | .ctcssEncOn => c.ctcssEncOnCode :: pre3
  | .ctcssEncOff => c.ctcssOffCode :: pre3
  | .setCtcssFreq v => bcdBytes v 4 ++ [fill, fill]
  | .readEeprom a => [addrHi a, addrLo a, fill, fill]
  | _ => pre4

/-- The bytes a command puts before its frame: PWR_ON's wake prefix (30_encoding.md R71). -/
def framePrefix (c : Config) (i : Instr) : List Byte := if i = .pwrOn then wakePrefix c else []

@[simp] theorem frameData_length (c : Config) (i : Instr) : (frameData c i).length = 4 := by
  cases i <;> simp [frameData, pre3, pre4]

@[simp] theorem framePrefix_length (c : Config) (i : Instr) :
    (framePrefix c i).length = if i = .pwrOn then c.pwrOnWakeBytes else 0 := by
  simp only [framePrefix]
  split <;> simp [wakePrefix]

theorem sendBytes_wire {bs : List Byte} {n : BitVec 3} (h : sendBytes bs n s = .next t) : t.wire = s.wire ++ bs := by
  cases h
  rfl

/-- A framed command that is not ignored puts its prefix, its four data bytes and its opcode on the wire. -/
theorem exec_wire_of_framed (hcodec : isCodec i = false) (hcause : causeOf i = .ok) (h : exec i s = .next t) :
    ∃ opc, opcodeOf s.cfg i = some opc ∧
      t.wire = s.wire ++ (framePrefix s.cfg i ++ (frameData s.cfg i ++ [opc])) := by
  cases i
  case enc | dec => cases hcodec
  case setMode m =>
    have hm : m ≤ 8 := by
      by_contra hm
      simp [causeOf, hm] at hcause
    exact ⟨_, rfl, sendBytes_wire ((execSetMode_legal hm s).symm.trans h)⟩
  case readTxState2 =>
    simp only [exec, execReadTxState2] at h
    split at h
    case h_1 opc hopc => exact ⟨opc, hopc, sendBytes_wire h⟩
    case h_2 => cases h
  all_goals exact ⟨_, rfl, sendBytes_wire h⟩

/-- The codec commands and the ignored ones put nothing on the wire (30_encoding.md R77; R118). -/
theorem exec_wire_of_silent (hsilent : isCodec i = true ∨ causeOf i ≠ .ok) (h : exec i s = .next t) : t.wire = s.wire := by
  cases i
  case enc v n =>
    simp only [exec, execEnc] at h
    split at h <;> cases h <;> rfl
  case dec w k =>
    simp only [exec, execDec] at h
    split at h <;> cases h <;> rfl
  case setMode m =>
    have hm : 8 < m := by
      by_contra hm
      simp [isCodec, causeOf, Nat.not_lt.mp hm] at hsilent
    cases (execSetMode_over hm s).symm.trans h
    rfl
  all_goals simp [isCodec, causeOf] at hsilent

/-- Settles O27: a silent command adds nothing, any other its prefix and the five bytes of its frame. -/
theorem wireBytesPerCommand : Obligations.WireBytesPerCommand := by
  intro i s t h
  split
  case isTrue hsilent => rw [exec_wire_of_silent hsilent h, Nat.add_zero]
  case isFalse hframed =>
    obtain ⟨hcodec, hcause⟩ := not_or.mp hframed
    obtain ⟨opc, -, hwire⟩ := exec_wire_of_framed (Bool.eq_false_of_not_eq_true hcodec) (not_not.mp hcause) h
    simp only [hwire, List.length_append, frameData_length, framePrefix_length, List.length_singleton]
    split <;> omega

/-! ## The frame reader as a table -/

/-- A row of the opcode map "read as a frame decoder would read it" (30_encoding.md R75): an opcode, and what the reader then
answers. -/
abbrev ReaderRow := Byte × Option (CatOp × List Byte)

/-- The opcode map of R75 for the data bytes f0 to f3, in the order in which `readFrame` tests the opcodes. -/
def readerTable (c : Config) (f0 f1 f2 f3 : Byte) : List ReaderRow :=
  ([(c.opcLockOn, some (.lockOn, [])), (c.opcLockOff, some (.lockOff, [])), (c.opcPttOn, some (.pttOn, [])),
    (c.opcPttOff, some (.pttOff, [])), (c.opcSplitOn, some (.splitOn, [])), (c.opcSplitOff, some (.splitOff, [])),
    (c.opcVfoSwap, some (.vfoSwap, [])), (c.opcPwrOn, some (.pwrOn, [])), (c.opcPwrOff, some (.pwrOff, [])),
    (c.opcFreqSet, some (.setFreq, [f0, f1, f2, f3])), (c.opcReadFreqMode, some (.readFreqMode, [])),
    (c.opcModeSet, some (.setMode, [f0])),
    (c.opcCtcssMode,
      if f0 = c.ctcssEncOnCode then some (.ctcssEncOn, [])
      else if f0 = c.ctcssOffCode then some (.ctcssEncOff, []) else none),
    (c.opcCtcssFreq, some (.setCtcssFreq, [f0, f1])), (c.opcRptShift, some (.rptDir, [f0])),
    (c.opcRptOffset, some (.rptOffset, [f0, f1, f2, f3])), (c.opcTxMeters, some (.readTxMeters, [])),
    (c.opcTxState, some (.readTxState, []))] : List ReaderRow) ++
  (c.opcTxState2.toList.map (fun opc => (opc, some (.readTxState2, []))) ++
    ([(c.opcRxStatus, some (.readRxStatus, [])), (c.opcEepromRead, some (.readEeprom, [f0, f1]))] : List ReaderRow))

/-- The table's opcodes are those of the instance, `OPC_TX_STATE2` in another place. -/
theorem readerTable_opcodes (c : Config) (f0 f1 f2 f3 : Byte) :
    ((readerTable c f0 f1 f2 f3).map Prod.fst).Perm c.opcodes := by
  simp only [readerTable, Config.opcodes, List.map_append, List.map_map, Function.comp_def, List.map_id_fun', id]
  exact List.perm_append_comm.append_left _

/-- One row of the table is one test of the reader. -/
theorem join_lookup_cons {α β : Type} [DecidableEq α] (a k : α) (r : Option β) (rows : List (α × Option β)) :
    (List.lookup a ((k, r) :: rows)).join = if a = k then r else (List.lookup a rows).join := by
  rw [List.lookup_cons]
  by_cases h : a = k
  · rw [h, beq_self_eq_true, if_pos rfl]
    rfl
  · rw [beq_false_of_ne h, if_neg h]

theorem readFrame_eq_lookup (c : Config) (f0 f1 f2 f3 opc : Byte) :
    readFrame c [f0, f1, f2, f3, opc] = ((readerTable c f0 f1 f2 f3).lookup opc).join := by
  cases h : c.opcTxState2 <;> simp [readFrame, readerTable, join_lookup_cons, h]

/-- In a table of distinct keys the lookup finds every row. -/
theorem lookup_eq_some_of_mem {α β : Type} [DecidableEq α] {rows : List (α × β)} (hnodup : (rows.map Prod.fst).Nodup)
    {k : α} {v : β} (hmem : (k, v) ∈ rows) : rows.lookup k = some v := by
  induction rows with
  | nil => cases hmem
  | cons row rows ih =>
    obtain ⟨hnot, hnodup⟩ := List.nodup_cons.mp hnodup
    rw [List.lookup_cons]
    rcases List.mem_cons.mp hmem with rfl | hmem
    · rw [beq_self_eq_true]
    · have hne : k ≠ row.1 := fun heq => hnot (heq ▸ List.mem_map_of_mem hmem)
      rw [beq_false_of_ne hne]
      exact ih hnodup hmem

/-! ## The reader recovers the command from its frame (R72, R75) -/

theorem opcodes_subcodes_nodup (hc : c.WellFormed) : (c.opcodes ++ [c.ctcssEncOnCode, c.ctcssOffCode]).Nodup :=
  of_decide_eq_true (Bool.and_eq_true_iff.mp hc).1

theorem ctcssOffCode_ne_ctcssEncOnCode (hc : c.WellFormed) : c.ctcssOffCode ≠ c.ctcssEncOnCode := by
  simpa [eq_comm] using (opcodes_subcodes_nodup hc).of_append_right

/-- In a well-formed instance the opcodes are distinct, so that the reader answers what the row of the frame's opcode says. -/
theorem readFrame_of_mem (hc : c.WellFormed) {f0 f1 f2 f3 : Byte} {r : Option (CatOp × List Byte)}
    (h : (opc, r) ∈ readerTable c f0 f1 f2 f3) : readFrame c [f0, f1, f2, f3, opc] = r := by
  have hkeys := (readerTable_opcodes c f0 f1 f2 f3).nodup_iff.mpr (opcodes_subcodes_nodup hc).of_append_left
  rw [readFrame_eq_lookup, lookup_eq_some_of_mem hkeys h]
  rfl

/-- The reader reads each command's own frame as that command with its data bytes: the frame's opcode has that row. -/
theorem readFrame_frame (hc : c.WellFormed) (hcodec : isCodec i = false) (hopc : opcodeOf c i = some opc) :
    readFrame c (frameData c i ++ [opc]) = frameReading c i := by
  cases i
  case enc | dec => cases hcodec
  case readTxState2 =>
    have hopc' : c.opcTxState2 = some opc := hopc
    exact readFrame_of_mem hc (by simp [readerTable, frameReading, hopc'])
  case ctcssEncOff =>
    cases hopc
    exact readFrame_of_mem hc (by simp [readerTable, frameReading, ctcssOffCode_ne_ctcssEncOnCode hc])
  case setFreq | rptOffset | setCtcssFreq =>
    cases hopc
    simp only [frameData, frameReading, bcdBytes_eight, bcdBytes_four, List.cons_append, List.nil_append]
    exact readFrame_of_mem hc (by simp [readerTable])
  all_goals
    cases hopc
    exact readFrame_of_mem hc (by simp [readerTable, frameReading])

/-- Settles O29: a command that emits is a framed one, the last five bytes of the wire are its frame, and the reader reads that
frame as the command. -/
theorem frameReaderRecoversCommand : Obligations.FrameReaderRecoversCommand := by
  intro i s t hc h hne
  obtain ⟨hcodec, hcause⟩ := not_or.mp fun hsilent => hne (exec_wire_of_silent hsilent h)
  have hcodec' : isCodec i = false := Bool.eq_false_of_not_eq_true hcodec
  obtain ⟨opc, hopc, hwire⟩ := exec_wire_of_framed hcodec' (not_not.mp hcause) h
  have hframe : t.wire.drop (t.wire.length - 5) = frameData s.cfg i ++ [opc] := by
    rw [hwire, ← List.append_assoc]
    refine List.drop_left' ?_
    simp only [List.length_append, frameData_length, List.length_singleton]
    omega
  exact ⟨hcodec', by rw [hframe, readFrame_frame hc hcodec' hopc]⟩

end Sys2Proof.Machine
end

section
/-! The BCD codec (40_bcd_codec.md): what ENC leaves in the register, what DEC makes of bytes, and how far the two undo each
other. -/

namespace Sys2Proof.Machine

variable {n k : Nat}

/-! ## Digits (R90) -/

/-- A digit below place n does not see the digits from place n up. -/
theorem digitNibble_mod_pow (v : Nat) {j : Nat} (h : j < n) : digitNibble (v % 10 ^ n) j = digitNibble v j := by
  obtain ⟨d, rfl⟩ := Nat.exists_eq_add_of_lt h
  have hpow : 10 ^ (j + d + 1) = 10 ^ j * (10 * 10 ^ d) := by ring
  rw [digitNibble, digit, hpow, Nat.mod_mul_right_div_self, Nat.mod_mul_right_mod]
  rfl

/-- Two neighbouring digits are one digit to base 100. -/
theorem digit_succ_mul_ten_add_digit (v j : Nat) : digit v (j + 1) * 10 + digit v j = v / 10 ^ j % 100 := by
  rw [digit, digit, Nat.pow_succ, ← Nat.div_div_eq_div_mul]
  omega

/-! ## Decoding bytes (R95, R96) -/

/-- m bytes decode to at most `165 * (100^m - 1) / 99`, said for any number r before them: each byte adds at most 165 (R95). -/
theorem foldl_decodeByte_le (r : Nat) (bs : List Byte) :
    99 * bs.foldl decodeByte r + 165 ≤ (99 * r + 165) * 100 ^ bs.length := by
  induction bs generalizing r with
  | nil => simp
  | cons b bs ih =>
    have hhi := (hi b).isLt
    have hlo := (lo b).isLt
    have hbyte : 99 * decodeByte r b + 165 ≤ (99 * r + 165) * 100 := by
      rw [decodeByte]
      omega
    calc 99 * bs.foldl decodeByte (decodeByte r b) + 165
        ≤ (99 * decodeByte r b + 165) * 100 ^ bs.length := ih _
      _ ≤ (99 * r + 165) * 100 * 100 ^ bs.length := Nat.mul_le_mul_right _ hbyte
      _ = (99 * r + 165) * 100 ^ (b :: bs).length := by rw [List.length_cons, Nat.pow_succ]; ring

theorem decodeBytes_le {bs : List Byte} (h : bs.length ≤ 4) : decodeBytes bs ≤ 166666665 := by
  have hfold : 99 * decodeBytes bs + 165 ≤ 165 * 100 ^ bs.length := foldl_decodeByte_le 0 bs
  have hpow : 100 ^ bs.length ≤ 100 ^ 4 := Nat.pow_le_pow_right (by decide) h
  omega

/-- A byte decoded, in the claims' own arithmetic. -/
theorem decodeByte_ofNat (r x : Nat) : decodeByte r (BitVec.ofNat 8 x) = r * 100 + x % 256 / 16 * 10 + x % 16 := by
  rw [decodeByte, hi_toNat, lo_toNat, BitVec.toNat_ofNat]
  omega

/-- The leading bytes of a word decoded, in the claims' own arithmetic. -/
theorem decodeBytes_take_wordBytes (hk : k ≤ 4) (w : Word) :
    decodeBytes ((wordBytes w).take k) =
      (List.range k).foldl
        (fun r i => r * 100 + w.toNat / 2 ^ (24 - 8 * i) % 256 / 16 * 10 + w.toNat / 2 ^ (24 - 8 * i) % 16) 0 := by
  rw [wordBytes_eq_map, ← List.map_take, List.take_range, Nat.min_eq_left hk, decodeBytes, List.foldl_map]
  simp only [decodeByte_ofNat]

/-! ## Digit pairs decode to the digits (R91, R97) -/

/-- The most significant pair stands first. -/
theorem bcdBytes_add_two (v n : Nat) :
    bcdBytes v (n + 2) = pair (digitNibble v (n + 1)) (digitNibble v n) :: bcdBytes v n := by
  simp only [bcdBytes, Nat.add_div_right n Nat.zero_lt_two, List.range_succ_eq_map, List.map_cons, List.map_map]
  refine congrArg₂ List.cons rfl (List.map_congr_left fun i _ => ?_)
  simp only [Function.comp_apply]
  congr 2 <;> omega

/-- The m full pairs of 2m + p digits hold the digits of v from place p up. -/
theorem foldl_decodeByte_bcdBytes (v r m : Nat) {p : Nat} (hp : p < 2) :
    (bcdBytes v (2 * m + p)).foldl decodeByte r = r * 10 ^ (2 * m) + v / 10 ^ p % 10 ^ (2 * m) := by
  induction m generalizing r with
  | zero => simp [bcdBytes, Nat.div_eq_of_lt hp, Nat.mod_one]
  | succ m ih =>
    have hpair := digit_succ_mul_ten_add_digit v (2 * m + p)
    have hpow : 10 ^ (2 * (m + 1)) = 10 ^ (2 * m) * 100 := by ring
    have hplace : v / 10 ^ p / 10 ^ (2 * m) = v / 10 ^ (2 * m + p) := by
      rw [Nat.div_div_eq_div_mul, ← Nat.pow_add, Nat.add_comm]
    calc (bcdBytes v (2 * (m + 1) + p)).foldl decodeByte r
        = (r * 100 + (digit v (2 * m + p + 1) * 10 + digit v (2 * m + p))) * 10 ^ (2 * m) +
            v / 10 ^ p % 10 ^ (2 * m) := by
          rw [show 2 * (m + 1) + p = 2 * m + p + 2 by ring, bcdBytes_add_two, List.foldl_cons, ih, decodeByte_pair,
            digitNibble_toNat, digitNibble_toNat, Nat.add_assoc]
      _ = r * (10 ^ (2 * m) * 100) + v / 10 ^ p % (10 ^ (2 * m) * 100) := by
          rw [hpair, Nat.mod_mul, hplace]
          ring
      _ = r * 10 ^ (2 * (m + 1)) + v / 10 ^ p % 10 ^ (2 * (m + 1)) := by rw [hpow]

/-- The pairs of an even digit count decode to the low n digits. -/
theorem decodeBytes_bcdBytes_even (v : Nat) (hn : n % 2 = 0) : decodeBytes (bcdBytes v n) = v % 10 ^ n := by
  have h := foldl_decodeByte_bcdBytes v 0 (n / 2) (p := 0) (by decide)
  rwa [Nat.add_zero, Nat.mul_div_cancel' (Nat.dvd_of_mod_eq_zero hn), Nat.zero_mul, Nat.zero_add, Nat.pow_zero,
    Nat.div_one] at h

/-- The full pairs of an odd digit count decode to the low n digits but the lowest. -/
theorem decodeBytes_bcdBytes_odd (v : Nat) (hn : n % 2 = 1) :
    decodeBytes (bcdBytes v n) = v / 10 % 10 ^ (n - 1) := by
  obtain ⟨m, rfl⟩ : ∃ m, n = 2 * m + 1 := ⟨n / 2, by omega⟩
  simpa [decodeBytes] using foldl_decodeByte_bcdBytes v 0 m (p := 1) (by decide)

/-! ## The register after ENC (R92 to R94) -/

theorem bcdReg_ext {r r' : BcdReg} (h : ∀ i < 4, readBcd r i = readBcd r' i) : r = r' := by
  obtain ⟨b0, b1, b2, b3⟩ := r
  obtain ⟨c0, c1, c2, c3⟩ := r'
  obtain rfl : b0 = c0 := h 0 (by decide)
  obtain rfl : b1 = c1 := h 1 (by decide)
  obtain rfl : b2 = c2 := h 2 (by decide)
  obtain rfl : b3 = c3 := h 3 (by decide)
  rfl

@[simp] theorem oddHighNibble_literal_toNat (old : Byte) : (oddHighNibble .literal old).toNat = old.toNat / 16 :=
  hi_toNat old

@[simp] theorem oddHighNibble_prezero_toNat (old : Byte) : (oddHighNibble .prezero old).toNat = 0 := rfl

/-- The high nibble that an odd digit count leaves is the one it leaves again. -/
@[simp] theorem oddHighNibble_pair_oddHighNibble (p : OddNibblePolicy) (old : Byte) (l : Nibble) :
    oddHighNibble p (pair (oddHighNibble p old) l) = oddHighNibble p old := by
  cases p with
  | literal => exact hi_pair _ _
  | prezero => rfl

/-- ENC reads the low n digits only (R94). -/
theorem encReg_mod_pow (p : OddNibblePolicy) (v n : Nat) (r : BcdReg) :
    encReg p (v % 10 ^ n) n r = encReg p v n r := by
  refine bcdReg_ext fun j hj => ?_
  rw [readBcd_encReg _ _ _ _ _ hj, readBcd_encReg _ _ _ _ _ hj]
  split
  case isTrue hpair => rw [digitNibble_mod_pow v (by omega), digitNibble_mod_pow v (by omega)]
  case isFalse =>
    split
    case isTrue hodd => rw [digitNibble_mod_pow v (by omega)]
    case isFalse => rfl

/-- ENC of what it has written writes it again (R93). -/
theorem encReg_encReg (p : OddNibblePolicy) (v n : Nat) (r : BcdReg) :
    encReg p v n (encReg p v n r) = encReg p v n r := by
  refine bcdReg_ext fun j hj => ?_
  have hread := readBcd_encReg p v n r j hj
  rw [readBcd_encReg p v n (encReg p v n r) j hj]
  split
  case isTrue hpair => rw [hread, if_pos hpair]
  case isFalse hpair =>
    split
    case isTrue hodd => rw [hread, if_neg hpair, if_pos hodd, oddHighNibble_pair_oddHighNibble]
    case isFalse => rfl

/-- The leading bytes of the register after ENC are BCD_BYTES of the value. -/
theorem map_readBcd_encReg (p : OddNibblePolicy) (v : Nat) (hn : n ≤ 8) (r : BcdReg) :
    (List.range (n / 2)).map (readBcd (encReg p v n r)) = bcdBytes v n := by
  refine List.map_congr_left fun j hj => ?_
  have hj' := List.mem_range.mp hj
  rw [readBcd_encReg _ _ _ _ _ (by omega), if_pos hj']

/-- The byte in which an odd digit count ends (R93). -/
theorem readBcd_encReg_odd (p : OddNibblePolicy) (v : Nat) (hn : n ≤ 8) (hodd : n % 2 = 1) (r : BcdReg) :
    readBcd (encReg p v n r) (n / 2) = pair (oddHighNibble p (readBcd r (n / 2))) (digitNibble v 0) := by
  rw [readBcd_encReg _ _ _ _ _ (by omega), if_neg (by omega), if_pos (by omega)]

/-! ## ENC and then DEC (R97, R98) -/

/-- The leading bytes of `bcd_out` are those of the register (20_memory.md R44). -/
theorem take_wordBytes_bcdOut (hk : k ≤ 4) (r : BcdReg) :
    (wordBytes (bcdOut r)).take k = (List.range k).map (readBcd r) := by
  have hall : wordBytes (bcdOut r) = (List.range 4).map (readBcd r) := wordBytes_packBytes _ _ _ _
  rw [hall, ← List.map_take, List.take_range, Nat.min_eq_left hk]

/-- DEC of ENC's result decodes the leading bytes of the register that ENC leaves. -/
theorem exec_enc_dec (v : Nat) (hn : n ≤ 8) (hk : k ≤ 4) (s : State) :
    ∃ t u, exec (.enc v n) s = .next t ∧ exec (.dec t.outs.result k) t = .next u ∧
      u.outs.result.toNat =
        decodeBytes ((List.range k).map (readBcd (encReg s.cfg.oddNibblePolicy v n s.bcd))) := by
  refine ⟨_, _, execEnc_legal hn v s, execDec_legal hk _ _, ?_⟩
  have hfit := decodeBytes_le (bs := (List.range k).map (readBcd (encReg s.cfg.oddNibblePolicy v n s.bcd))) (by simpa)
  rw [complete_outs, complete_outs, take_wordBytes_bcdOut hk, BitVec.toNat_ofNat]
  omega

/-- An even digit count comes back as the low n digits. -/
theorem exec_enc_dec_even (v : Nat) (hn : n ≤ 8) (heven : n % 2 = 0) (s : State) :
    ∃ t u, exec (.enc v n) s = .next t ∧ exec (.dec t.outs.result (n / 2)) t = .next u ∧
      u.outs.result.toNat = v % 10 ^ n := by
  obtain ⟨t, u, henc, hdec, hres⟩ := exec_enc_dec v hn (show n / 2 ≤ 4 by omega) s
  exact ⟨t, u, henc, hdec, by rw [hres, map_readBcd_encReg _ _ hn, decodeBytes_bcdBytes_even v heven]⟩

/-- Settles O12: DEC decodes the register that ENC leaves, its leading bytes are BCD_BYTES of the value, and those decode to the
low n digits; a value up to 99999999 has eight. -/
theorem bcdRoundTrip : Obligations.BcdRoundTrip := by
  refine ⟨fun v s hv => ?_, fun v n s hn heven => exec_enc_dec_even v hn heven s,
    fun v n _ heven => decodeBytes_bcdBytes_even v heven⟩
  have hlow : v % 10 ^ 8 = v := Nat.mod_eq_of_lt (by omega)
  have hround := exec_enc_dec_even v (Nat.le_refl 8) (by decide) s
  rwa [hlow] at hround

/-- Settles O13: the full pairs decode to the digits above the lowest, and one more byte brings the high nibble of the policy and
the lowest digit. -/
theorem oddDigitCountDecodes : Obligations.OddDigitCountDecodes := by
  intro v n s hn hodd
  obtain ⟨t, u, henc, hdec, hres⟩ := exec_enc_dec v hn (show (n + 1) / 2 ≤ 4 by omega) s
  refine ⟨t, u, henc, hdec, ?_⟩
  have hcount : (n + 1) / 2 = n / 2 + 1 := by omega
  have hlast : (n - 1) / 2 = n / 2 := by omega
  rw [hres, hcount, List.range_succ, List.map_append, map_readBcd_encReg _ _ hn, List.map_singleton,
    readBcd_encReg_odd _ _ hn hodd, decodeBytes, List.foldl_concat, ← decodeBytes, decodeBytes_bcdBytes_odd v hodd,
    decodeByte_pair, digitNibble_toNat, hlast]
  cases s.cfg.oddNibblePolicy <;> simp [digit]

/-! ## ENC and DEC by themselves (R92 to R96) -/

theorem decode_enc {cw : CmdWord} (h : (selOf cw).toNat = 0x00) :
    decode cw = .ok (.enc (uint32 (argOf cw)) (auxOf cw).toNat) := by
  simp only [decode, h]

theorem decode_dec {cw : CmdWord} (h : (selOf cw).toNat = 0x01) : decode cw = .ok (.dec (argOf cw) (auxOf cw).toNat) := by
  simp only [decode, h]

theorem argOf_eq_ofNat (cw : CmdWord) : argOf cw = BitVec.ofNat 32 cw.toNat :=
  BitVec.eq_of_toNat_eq ((argOf_toNat cw).trans (BitVec.toNat_ofNat ..).symm)

/-- Settles O8: the cases of a byte of the register are a full pair, the byte of an odd count's lowest digit, and an untouched
byte. -/
theorem encPacksLowDigits : Obligations.EncPacksLowDigits := by
  refine ⟨fun cw hsel => ?_, fun v n s => ⟨fun hover => execEnc_over hover v s,
    fun hn => ⟨_, execEnc_legal hn v s, fun i hi => ?_⟩⟩⟩
  · rw [decode_enc ((selOf_toNat cw).trans hsel), uint32, argOf_toNat, auxOf_toNat]
  · have hfull : i < n / 2 ↔ 2 * i + 2 ≤ n := by omega
    simp only [readBcd_encReg _ _ _ _ _ hi, hfull]
    split
    case isTrue hpair =>
      rw [← pair_digits]
      congr 2
      omega
    case isFalse =>
      split
      case isTrue hodd =>
        rw [pair_eq_ofNat, digitNibble_toNat]
        cases s.cfg.oddNibblePolicy <;> simp [digit]
      case isFalse => rfl

/-- Settles O9: over 8 the value is not looked at, and up to 8 the register sees the low n digits only. -/
theorem encDropsHigherDigits : Obligations.EncDropsHigherDigits := by
  refine fun v n s => ⟨?_, fun hn => ⟨_, execEnc_legal hn v s, rfl⟩⟩
  change execEnc v n s = execEnc (v % 10 ^ n) n s
  rcases Nat.lt_or_ge 8 n with hn | hn
  · rw [execEnc_over hn, execEnc_over hn]
  · rw [execEnc_legal hn, execEnc_legal hn, encReg_mod_pow]

/-- Settles O10: an ignored count leaves the register, and a legal one writes what the register already holds. -/
theorem encRepeatedWritesTheSame : Obligations.EncRepeatedWritesTheSame := by
  intro v n s t h
  rcases Nat.lt_or_ge 8 n with hn | hn
  · cases (execEnc_over hn v s).symm.trans h
    exact execEnc_over hn v _
  · cases (execEnc_legal hn v s).symm.trans h
    refine (execEnc_legal hn v _).trans ?_
    simp only [complete_bcd, complete_cfg, encReg_encReg]
    rfl

/-- Settles O11: the bytes of the operand decode by the claim's fold, within the bound for four bytes. -/
theorem decFoldsLeadingBytes : Obligations.DecFoldsLeadingBytes := by
  refine ⟨fun cw hsel => ?_, fun w k s => ⟨fun hover => execDec_over hover w s,
    fun hk => ⟨_, rfl, ?_, ?_⟩⟩⟩
  · rw [decode_dec ((selOf_toNat cw).trans hsel), argOf_eq_ofNat, auxOf_toNat]
  · rw [← decodeBytes_take_wordBytes hk]
    exact decodeBytes_le (by simp [hk])
  · rw [← decodeBytes_take_wordBytes hk]
    exact execDec_legal hk w s

end Sys2Proof.Machine
end

section
/-! The frame builder (41_frame_builder.md): the frames, the ports of R121 to R125 edge by edge, and that a run of the ports agrees
with the transactions of the words it accepts (R126). -/

namespace Sys2Proof.Machine

variable {s t u : State} {cw : CmdWord} {p : PortIn}

/-! ## Frames (R113, R119) -/

/-- Settles O26: the frame is the command's four data bytes and its opcode, and only PWR_ON puts bytes before it. -/
theorem everyFrameEndsInItsOpcode : Obligations.EveryFrameEndsInItsOpcode := by
  intro i s t hcodec hcause h
  obtain ⟨opc, hopc, hwire⟩ := exec_wire_of_framed hcodec hcause h
  refine ⟨framePrefix s.cfg i, frameData s.cfg i ++ [opc], hwire, by simp, by simp [hopc], ?_⟩
  simp only [framePrefix]
  split <;> rfl

theorem exec_bcd_of_framed {i : Instr} (hcodec : isCodec i = false) (h : exec i s = .next t) : t.bcd = s.bcd := by
  obtain hsame | ⟨_, _, rfl, _⟩ := exec_bcd h
  · exact hsame
  · cases hcodec

/-- Settles O28: a command emits the same bytes from every state with the same parameters, and of the commands only ENC writes the
register. -/
theorem framesDependOnCommandAndParametersOnly : Obligations.FramesDependOnCommandAndParametersOnly := by
  intro i s s' t hcodec hcfg h
  obtain ⟨t', out, h', hwire, hwire'⟩ := exec_emits_same h hcfg
  exact ⟨exec_bcd_of_framed hcodec h, t', out, h', exec_bcd_of_framed hcodec h', hwire, hwire'⟩

/-! ## A transaction's outcome depends on the word, the parameters and the register alone (R117) -/

/-- The outcome of a command carries over to every state with the same parameters and the same register: the same bytes, the
same new register and the same outputs. -/
theorem exec_of_same_cfg_bcd {i : Instr} (h : exec i s = .next t) (hcfg : u.cfg = s.cfg) (hbcd : u.bcd = s.bcd) :
    ∃ out, t.wire = s.wire ++ out ∧
      exec i u = .next { u with bcd := t.bcd, wire := u.wire ++ out, outs := t.outs, done := true } := by
  obtain ⟨c, r, _, _, _, _, _, _, _, _, _⟩ := u
  obtain rfl : c = s.cfg := hcfg
  obtain rfl : r = s.bcd := hbcd
  cases i
  case enc v n =>
    simp only [exec, execEnc] at h ⊢
    split at h <;> cases h <;> exact ⟨[], by simp, by simp [*, ignore_eq, complete]⟩
  case dec w k =>
    simp only [exec, execDec] at h ⊢
    split at h <;> cases h <;> exact ⟨[], by simp, by simp [*, ignore_eq, complete]⟩
  case setMode m =>
    simp only [exec, execSetMode] at h ⊢
    split at h
    case isTrue hm =>
      cases h
      exact ⟨[], by simp, by simp [hm, ignore_eq]⟩
    case isFalse hm =>
      cases h
      exact ⟨_, rfl, if_neg hm⟩
  case readTxState2 =>
    simp only [exec, execReadTxState2] at h ⊢
    cases hopc : s.cfg.opcTxState2 with
    | none => simp [hopc] at h
    | some opc =>
      rw [hopc] at h
      cases h
      exact ⟨_, rfl, rfl⟩
  all_goals
    cases h
    exact ⟨_, rfl, rfl⟩

theorem runWord_of_same_cfg_bcd (h : runWord cw s = .next t) (hcfg : u.cfg = s.cfg) (hbcd : u.bcd = s.bcd) :
    ∃ out, t.wire = s.wire ++ out ∧
      runWord cw u = .next { u with bcd := t.bcd, wire := u.wire ++ out, outs := t.outs, done := true } := by
  simp only [runWord] at h ⊢
  split at h
  · exact exec_of_same_cfg_bcd h hcfg hbcd
  · cases h
    exact ⟨[], by simp, by simp [ignore_eq, hbcd]⟩

/-- A transaction does not touch the emitter, and completes with `done` (R117). -/
theorem runWord_idle (hs : s.Idle) (h : runWord cw s = .next t) : t.Idle ∧ t.done = true := by
  obtain ⟨_, _, _, rfl, -⟩ := runWord_next h
  exact ⟨hs, rfl⟩

/-! ## One rising edge, case by case (R122 to R125) -/

theorem accepts_iff : accepts p s = true ↔ p.rst = false ∧ p.cmdValid = true ∧ s.busy = false := by
  simp [accepts, and_assoc]

theorem clockEdge_transfer (hr : p.rst = false) (hb : s.busy = true) (ho : p.outReady = true) :
    clockEdge p s = .next (transferByte s) := by
  simp [clockEdge, hr, hb, ho]

theorem clockEdge_stall (hr : p.rst = false) (hb : s.busy = true) (ho : p.outReady = false) :
    clockEdge p s = .next { s with done := false } := by
  simp [clockEdge, hr, hb, ho]

theorem clockEdge_accept (hr : p.rst = false) (hb : s.busy = false) (hv : p.cmdValid = true) :
    clockEdge p s = acceptWord p.cmdWord s := by
  simp [clockEdge, hr, hb, hv]

theorem clockEdge_quiet (hr : p.rst = false) (hb : s.busy = false) (hv : p.cmdValid = false) :
    clockEdge p s = .next { s with done := false } := by
  simp [clockEdge, hr, hb, hv]

/-- Acceptance loads the emitter with what the transaction puts on the wire (R122). -/
theorem acceptWord_eq {out : List Byte} (h : runWord cw s = .next t) (hwire : t.wire = s.wire ++ out) :
    acceptWord cw s = .next (loadEmitter s { t with wire := out }) := by
  obtain ⟨out', hw⟩ := runWord_withWire cw s
  obtain rfl : out = out' := by
    have hself := hw s.wire
    rw [h] at hself
    have ht : t = { t with wire := s.wire ++ out' } := Host.Outcome.next.inj hself
    exact List.append_cancel_left (hwire.symm.trans (congrArg State.wire ht))
  rw [acceptWord, hw [], h]
  rfl

/-- Settles O42: what the transaction emits is loaded, and with nothing to emit the transaction's state stands at once. -/
theorem acceptanceLoadsEmitter : Obligations.AcceptanceLoadsEmitter := by
  intro p s t hs hr hv h
  obtain ⟨⟨hbusy, hq, hidx, -⟩, hdone⟩ := runWord_idle hs h
  obtain ⟨out, hwire, -⟩ := runWord_emits h
  refine ⟨out, _, hwire, (clockEdge_accept hr hs.1 hv).trans (acceptWord_eq h hwire), ?_⟩
  cases out with
  | nil => exact ⟨rfl, rfl, hq, hidx, hbusy, hdone, fun _ => rfl⟩
  | cons b bs => exact ⟨rfl, rfl, rfl, rfl, rfl, rfl, nofun⟩

/-- Settles O43: the port offers the byte at `emit_idx`, a transfer appends it, and a stall changes `done` alone. -/
theorem byteTransfer : Obligations.ByteTransfer := by
  intro p s hr
  refine ⟨fun hb => by simp [portOut, hb], fun hb hidx => ?_⟩
  have hbyte : s.q[s.emitIdx]? = some (portOut p s).outByte := by simp [portOut, hr, hb, hidx]
  refine ⟨by simp [portOut, hr, hb], hbyte, fun ho => ?_, fun ho => ⟨_, clockEdge_stall hr hb ho, rfl, hb, rfl⟩⟩
  refine ⟨_, clockEdge_transfer hr hb ho, by simp [hbyte], transferByte_bcd s, fun hmid => ?_⟩
  rw [transferByte_middle hmid]
  exact ⟨hb, rfl, rfl⟩

/-- Settles O44: the edge is a byte transfer, and the last one. -/
theorem lastTransferCompletes : Obligations.LastTransferCompletes := by
  intro p s b o hr ho hb hlast hbyte hheld
  rw [clockEdge_transfer hr hb ho, transferByte_last hlast.ge, hbyte, hheld]
  rfl

/-- Settles O45, by the cases of an edge: a reset, a stall, a transfer that is not the last and an edge with nothing presented
leave `done` low, and so does acceptance of a command with bytes. -/
theorem doneLastsOneEdge : Obligations.DoneLastsOneEdge := by
  intro p s t h hdone
  obtain ⟨-, rfl⟩ | ⟨hr, hb, ho, rfl⟩ | ⟨-, -, -, rfl⟩ | ⟨hacc, ha⟩ | ⟨-, -, -, rfl⟩ := clockEdge_next h
  · cases hdone
  · refine ⟨hr, .inl ⟨hb, ho, ?_⟩⟩
    by_contra hmid
    rw [transferByte_middle (Nat.lt_of_not_ge hmid)] at hdone
    cases hdone
  · cases hdone
  · obtain ⟨hr, -, -⟩ := accepts_iff.mp hacc
    obtain ⟨u, out, hu, hwire, ⟨rfl, rfl⟩ | ⟨-, -, rfl⟩⟩ := acceptWord_next ha
    · exact ⟨hr, .inr ⟨hacc, t, hu, by rw [hwire, List.append_nil]⟩⟩
    · cases hdone
  · cases hdone

/-- Settles O46: such an edge changes `done` alone. -/
theorem outputsHeldUntilNextAcceptance : Obligations.OutputsHeldUntilNextAcceptance := by
  intro p s t h hr hb hv
  cases (clockEdge_quiet hr hb hv).symm.trans h
  exact ⟨rfl, rfl, rfl⟩

/-- Settles O47: of a busy block's inputs an edge looks at `rst` and `out_ready` alone. -/
theorem busyBlockAcceptsNothing : Obligations.BusyBlockAcceptsNothing := by
  intro p s v cw hb
  exact ⟨by simp [portOut, hb], by simp [clockEdge, hb]⟩

/-! ## One step over a presented command word (R117, R125) -/

theorem step_command {rest : List Input} (hb : s.busy = false) (hin : s.inputs = .command cw :: rest) :
    step s = runWord cw { s with inputs := rest } := by
  simp [step, runInput, hin, hb]

theorem step_waiting {rest : List Input} (hb : s.busy = true) (hin : s.inputs = .command cw :: rest) :
    step s = .next (transferByte s) := by
  simp [step, runInput, hin, hb]

theorem runWord_of_decode {i : Instr} (h : decode cw = .ok i) (s : State) : runWord cw s = exec i s := by
  simp only [runWord, h]

/-- Settles O33: the step runs the word at the head of the inputs; `withFetchWord` puts it there and makes the emitter idle. -/
theorem stepRunsDecodedCommand : Obligations.StepRunsDecodedCommand := by
  refine ⟨fun s cw rest i hb hin hd => ?_, fun s w i hw hd => ?_⟩
  · rw [step_command hb hin, runWord_of_decode hd]
  · have hin : (s.withFetchWord 41 w).inputs = .command (BitVec.ofNat 41 w) :: s.inputs := by
      simp only [State.withFetchWord, Nat.mod_eq_of_lt hw]
    rw [step_command rfl hin, runWord_of_decode hd]
    rfl

@[simp] theorem transferByte_inputs (s : State) : (transferByte s).inputs = s.inputs := by
  simp only [transferByte]
  split <;> rfl

/-- Settles O34: the step is a byte transfer, which takes no input. -/
theorem presentedCommandWaitsWhileBusy : Obligations.PresentedCommandWaitsWhileBusy := by
  intro s cw rest hb hin hidx
  have hbyte : s.q[s.emitIdx]? = some s.q[s.emitIdx] := List.getElem?_eq_getElem hidx
  exact ⟨_, _, step_waiting hb hin, hbyte, by simp [hbyte], transferByte_inputs s, transferByte_bcd s⟩

/-! ## An accepted command drains (R124, R243) -/

theorem runEdges_cons {ps : List PortIn} (h : clockEdge p s = .next t) : runEdges (p :: ps) s = runEdges ps t := by
  simp only [runEdges, h]

/-- The pending bytes are the byte at `emit_idx` and those behind it. -/
theorem State.pending_eq (s : State) : s.pending = s.q[s.emitIdx]?.toList ++ s.q.drop (s.emitIdx + 1) :=
  List.drop_eq_getElem?_toList_append

/-- With the transport ready at every edge, as many edges as bytes are pending put those on the wire and complete the command. -/
theorem runEdges_drain {o : Outputs} {n : Nat} (hr : p.rst = false) (ho : p.outReady = true) (hb : s.busy = true)
    (hlen : s.emitIdx + (n + 1) = s.q.length) (hheld : s.held = some o) :
    runEdges (List.replicate (n + 1) p) s = .next { s with
      wire := s.wire ++ s.pending, busy := false, q := [], emitIdx := 0, held := none, outs := o, done := true } := by
  induction n generalizing s with
  | zero =>
    rw [List.replicate_succ, runEdges_cons (clockEdge_transfer hr hb ho), transferByte_last hlen.ge, s.pending_eq,
      List.drop_of_length_le hlen.ge, List.append_nil, hheld]
    rfl
  | succ n ih =>
    have hmid : s.emitIdx + 1 + (n + 1) = s.q.length := by omega
    rw [List.replicate_succ, runEdges_cons (clockEdge_transfer hr hb ho), transferByte_middle (by omega), s.pending_eq,
      ← List.append_assoc]
    exact ih hb hmid hheld

/-- Settles O51: acceptance loads the command's bytes with its outputs held, and as many ready edges drain them. -/
theorem acceptedCommandDrains : Obligations.AcceptedCommandDrains := by
  intro p r s t out hs hr hv hrr hro h hwire
  obtain ⟨⟨hbusy, hq, hidx, hheld⟩, hdone⟩ := runWord_idle hs h
  rw [runEdges_cons ((clockEdge_accept hr hs.1 hv).trans (acceptWord_eq h hwire))]
  cases out with
  | nil => exact ⟨t.draws, by simp [runEdges, loadEmitter, hwire]⟩
  | cons b bs =>
    refine ⟨t.draws + 1, ?_⟩
    have hlen : 0 + (bs.length + 1) = (b :: bs).length := Nat.zero_add _
    refine (runEdges_drain (p := { r with cmdValid := false }) (o := t.outs) hrr hro rfl hlen rfl).trans ?_
    simp [loadEmitter, drawOutputs, State.pending, hbusy, hq, hidx, hheld, hdone, hwire]

/-! ## Ports and transactions agree (R126) -/

/-- The transactions' state `u` and the ports' state `t` agree: the same parameters and register, the same wire once the pending
bytes are transferred, and an emitter with nothing in it whenever it is not busy. -/
structure Agrees (u t : State) : Prop where
  cfg : u.cfg = t.cfg
  bcd : u.bcd = t.bcd
  wire : u.wire = t.wire ++ t.pending
  idle : t.busy = false → t.Idle

/-- The outputs of the command accepted last: held while it is in progress (log 10), shown once it is complete. -/
def State.due (s : State) : Outputs := s.held.getD s.outs

theorem State.Idle.pending_eq_nil (hs : s.Idle) : s.pending = [] := by
  obtain ⟨-, hq, -, -⟩ := hs
  simp [State.pending, hq]

theorem State.Idle.due_eq_outs (hs : s.Idle) : s.due = s.outs := by
  obtain ⟨-, -, -, hheld⟩ := hs
  simp [State.due, hheld]

theorem Agrees.of_idle (hs : s.Idle) : Agrees s s :=
  ⟨rfl, rfl, by rw [hs.pending_eq_nil, List.append_nil], fun _ => hs⟩

theorem transferByte_agrees (ha : Agrees u s) (hb : s.busy = true) : Agrees u (transferByte s) := by
  have hwire := ha.wire
  rw [s.pending_eq, ← List.append_assoc] at hwire
  rcases Nat.lt_or_ge (s.emitIdx + 1) s.q.length with hmid | hlast
  · rw [transferByte_middle hmid]
    exact ⟨ha.cfg, ha.bcd, hwire, fun hidle : s.busy = false => by simp [hb] at hidle⟩
  · rw [transferByte_last hlast]
    rw [List.drop_of_length_le hlast] at hwire
    exact ⟨ha.cfg, ha.bcd, hwire, fun _ => ⟨rfl, rfl, rfl, rfl⟩⟩

@[simp] theorem transferByte_due (s : State) : (transferByte s).due = s.due := by
  simp only [transferByte]
  split <;> simp [State.due]

/-- An accepting edge on the ports' side is one transaction on the other (R122). -/
theorem acceptWord_agrees (ha : Agrees u s) (hb : s.busy = false) (h : acceptWord cw s = .next t) :
    ∃ v, runWord cw u = .next v ∧ Agrees v t ∧ v.outs = t.due := by
  have hs := ha.idle hb
  obtain ⟨m, out, hm, hwire, hcase⟩ := acceptWord_next h
  obtain ⟨out', hwire', hv⟩ := runWord_of_same_cfg_bcd hm ha.cfg ha.bcd
  obtain rfl : out = out' := List.append_cancel_left (hwire.symm.trans hwire')
  have hcfg : u.cfg = m.cfg := ha.cfg.trans (runWord_cfg hm).symm
  have huwire : u.wire = s.wire := by rw [ha.wire, hs.pending_eq_nil, List.append_nil]
  refine ⟨_, hv, ?_⟩
  obtain ⟨rfl, rfl⟩ | ⟨-, -, rfl⟩ := hcase
  · have hidle := (runWord_idle hs hm).1
    exact ⟨⟨hcfg, rfl, by simp [hidle.pending_eq_nil, huwire, hwire], fun _ => hidle⟩, hidle.due_eq_outs.symm⟩
  · exact ⟨⟨hcfg, rfl, by simp [State.pending, huwire], nofun⟩, rfl⟩

/-- An edge that neither resets nor accepts keeps the agreement and the outputs due. -/
theorem clockEdge_agrees (ha : Agrees u s) (hr : p.rst = false) (hacc : accepts p s = false) (h : clockEdge p s = .next t) :
    Agrees u t ∧ t.due = s.due := by
  have hkeep : Agrees u { s with done := false } := ⟨ha.cfg, ha.bcd, ha.wire, ha.idle⟩
  obtain ⟨hrst, -⟩ | ⟨-, hb, -, rfl⟩ | ⟨-, -, -, rfl⟩ | ⟨hacc', -⟩ | ⟨-, -, -, rfl⟩ := clockEdge_next h
  · simp [hr] at hrst
  · exact ⟨transferByte_agrees ha hb, transferByte_due s⟩
  · exact ⟨hkeep, rfl⟩
  · simp [hacc] at hacc'
  · exact ⟨hkeep, rfl⟩

/-- A reset of an idle block, or an edge at which nothing is presented to it, keeps it idle and keeps the agreement (log 9). -/
theorem clockEdge_agrees_of_noCommand (ha : Agrees u s) (hs : s.Idle) (hp : p.rst = true ∨ p.cmdValid = false)
    (h : clockEdge p s = .next t) : accepts p s = false ∧ t.Idle ∧ Agrees u t := by
  have hacc : accepts p s = false := by
    rcases hp with hr | hv
    · simp [accepts, hr]
    · simp [accepts, hv]
  have hbusy := hs.1
  refine ⟨hacc, ?_⟩
  obtain ⟨-, rfl⟩ | ⟨-, hb, -, -⟩ | ⟨-, hb, -, -⟩ | ⟨hacc', -⟩ | ⟨-, -, -, rfl⟩ := clockEdge_next h
  · have hwire : u.wire = s.wire := by rw [ha.wire, hs.pending_eq_nil, List.append_nil]
    exact ⟨⟨rfl, rfl, rfl, rfl⟩, ha.cfg, ha.bcd, by simp [State.pending, hwire], fun _ => ⟨rfl, rfl, rfl, rfl⟩⟩
  · simp [hbusy] at hb
  · simp [hbusy] at hb
  · simp [hacc] at hacc'
  · exact ⟨hs, ha.cfg, ha.bcd, ha.wire, ha.idle⟩

/-- A list of edges completes one edge at a time. -/
theorem runEdges_cons_next {ps : List PortIn} (h : runEdges (p :: ps) s = .next t) :
    ∃ m, clockEdge p s = .next m ∧ runEdges ps m = .next t := by
  simp only [runEdges] at h
  split at h
  case h_1 m hm => exact ⟨m, hm, h⟩
  all_goals cases h

theorem acceptedWords_cons_of_accepts {ps : List PortIn} (hacc : accepts p s = true) (h : clockEdge p s = .next t) :
    acceptedWords (p :: ps) s = p.cmdWord :: acceptedWords ps t := by
  simp [acceptedWords, hacc, h]

theorem acceptedWords_cons_of_not_accepts {ps : List PortIn} (hacc : accepts p s = false) (h : clockEdge p s = .next t) :
    acceptedWords (p :: ps) s = acceptedWords ps t := by
  simp [acceptedWords, hacc, h]

/-- A run of the ports without reset keeps the agreement, by induction on the edges: each accepting edge is one transaction, and
the outputs due are the last transaction's. -/
theorem runEdges_agrees {ps : List PortIn} (hps : noReset ps = true) (ha : Agrees u s) (h : runEdges ps s = .next t) :
    ∃ v, runWords (acceptedWords ps s) u = .next v ∧ Agrees v t ∧
      (acceptedWords ps s ≠ [] ∨ u.outs = s.due → v.outs = t.due) := by
  induction ps generalizing s u with
  | nil =>
    cases h
    exact ⟨u, rfl, ha, fun hdue => hdue.resolve_left (· rfl)⟩
  | cons p ps ih =>
    obtain ⟨m, hedge, hrest⟩ := runEdges_cons_next h
    obtain ⟨hr, hps⟩ : p.rst = false ∧ noReset ps = true := by simpa [noReset] using hps
    cases hacc : accepts p s with
    | true =>
      obtain ⟨-, hv, hb⟩ := accepts_iff.mp hacc
      obtain ⟨v, hword, hagrees, hdue⟩ := acceptWord_agrees ha hb ((clockEdge_accept hr hb hv).symm.trans hedge)
      obtain ⟨w, hwords, hw, houts⟩ := ih hps hagrees hrest
      rw [acceptedWords_cons_of_accepts hacc hedge]
      exact ⟨w, by simp only [runWords, hword, hwords], hw, fun _ => houts (.inr hdue)⟩
    | false =>
      obtain ⟨hagrees, hdue⟩ := clockEdge_agrees ha hr hacc hedge
      rw [acceptedWords_cons_of_not_accepts hacc hedge, ← hdue]
      exact ih hps hagrees hrest

/-- The same with edges in front at which no command can be accepted: they leave the block idle and in agreement. -/
theorem runEdges_agrees_of_noCommand {pre post : List PortIn} (hs : s.Idle) (hpre : noCommand pre = true)
    (hpost : noReset post = true) (ha : Agrees u s) (h : runEdges (pre ++ post) s = .next t) :
    ∃ v, runWords (acceptedWords (pre ++ post) s) u = .next v ∧ Agrees v t ∧
      (acceptedWords (pre ++ post) s ≠ [] → v.outs = t.due) := by
  induction pre generalizing s with
  | nil =>
    obtain ⟨v, hwords, hagrees, houts⟩ := runEdges_agrees hpost ha h
    exact ⟨v, hwords, hagrees, fun hne => houts (.inl hne)⟩
  | cons p pre ih =>
    obtain ⟨m, hedge, hrest⟩ := runEdges_cons_next h
    obtain ⟨hp, hpre⟩ : (p.rst = true ∨ p.cmdValid = false) ∧ noCommand pre = true := by simpa [noCommand] using hpre
    obtain ⟨hacc, hm, hagrees⟩ := clockEdge_agrees_of_noCommand ha hs hp hedge
    rw [List.cons_append, acceptedWords_cons_of_not_accepts hacc hedge]
    exact ih hm hpre hagrees hrest

/-- Settles O50: an idle block agrees with itself, the run keeps the agreement, and at rest nothing is pending and the outputs due
are those shown. -/
theorem portsAgreeWithTransactions : Obligations.PortsAgreeWithTransactions := by
  intro pre post s t hs hpre hpost h
  obtain ⟨v, hwords, hagrees, houts⟩ := runEdges_agrees_of_noCommand hs hpre hpost (.of_idle hs) h
  refine ⟨v, hwords, hagrees.wire, hagrees.bcd, fun hb => ?_⟩
  have ht := hagrees.idle hb
  exact ⟨by rw [hagrees.wire, ht.pending_eq_nil, List.append_nil], fun hne => (houts hne).trans ht.due_eq_outs⟩

end Sys2Proof.Machine
end

section
/-! The commands (42_commands.md): which word asks for each framed command, what the command puts on the wire, and that nothing
but the wire, the outputs and `done` changes. -/

namespace Sys2Proof.Machine

variable {cw : CmdWord} {i : Instr} {o : Int}

/-! ## The word of a command (30_encoding.md R61, R63, R64) -/

/-- The operands of a command are what the fields of the word hold, read as R63 and R64 read them. -/
def HoldsOperands (cw : CmdWord) : Instr → Prop
  | .enc v n => v = cw.toNat % 2 ^ 32 ∧ n = cw.toNat / 2 ^ 32 % 16
  | .dec w k => w = argOf cw ∧ k = cw.toNat / 2 ^ 32 % 16
  | .setFreq v | .setMode v | .setCtcssFreq v => v = cw.toNat % 2 ^ 32
  | .rptDir o | .rptOffset o => o = signedArg cw
  | .readEeprom a => a = cw.toNat % 2 ^ 16
  | _ => True

theorem sint32_argOf_eq_signedArg (cw : CmdWord) : sint32 (argOf cw) = signedArg cw := sint32_argOf cw

/-- A word that carries a command's selector and operands decodes to that command. -/
theorem decode_of_selector (hsel : cw.toNat / 2 ^ 36 = i.selector.toNat) (hops : HoldsOperands cw i) :
    decode cw = .ok i := by
  have hsel' : (selOf cw).toNat = i.selector.toNat := (selOf_toNat cw).trans hsel
  cases i
  case enc =>
    obtain ⟨rfl, rfl⟩ := hops
    rw [decode_enc hsel', uint32_argOf, auxOf_toNat]
  case dec =>
    obtain ⟨rfl, rfl⟩ := hops
    rw [decode_dec hsel', auxOf_toNat]
  all_goals
    cases hops
    simp only [decode, hsel', Instr.selector, BitVec.reduceToNat, uint32_argOf, sint32_argOf_eq_signedArg, addrOf_toNat]

/-! ## Sending a frame (41_frame_builder.md R114 to R116) -/

theorem sendBytes_frameA (opc : Byte) (n : BitVec 3) (s : State) :
    sendBytes (frameA opc) n s =
      .next { s with wire := s.wire ++ [0x00, 0x00, 0x00, 0x00, opc], outs := ⟨0, 0, n⟩, done := true } :=
  sendBytes_eq _ n s

theorem sendBytes_frameB (d opc : Byte) (n : BitVec 3) (s : State) :
    sendBytes (frameB d opc) n s =
      .next { s with wire := s.wire ++ [d, 0x00, 0x00, 0x00, opc], outs := ⟨0, 0, n⟩, done := true } :=
  sendBytes_eq _ n s

/-- Format FC, its digits in the claims' own arithmetic. -/
theorem sendBytes_frameC_eight (v : Nat) (opc : Byte) (n : BitVec 3) (s : State) :
    sendBytes (frameC (bcdBytes v 8) opc) n s =
      .next { s with
        wire := s.wire ++ [decimalByte v 6, decimalByte v 4, decimalByte v 2, decimalByte v 0, opc]
        outs := ⟨0, 0, n⟩, done := true } := by
  rw [bcdBytes_eight]
  exact sendBytes_eq _ n s

/-- Format FD, its digits in the claims' own arithmetic. -/
theorem sendBytes_frameC_four (v : Nat) (opc : Byte) (n : BitVec 3) (s : State) :
    sendBytes (frameC (bcdBytes v 4 ++ [fill, fill]) opc) n s =
      .next { s with
        wire := s.wire ++ [decimalByte v 2, decimalByte v 0, 0x00, 0x00, opc], outs := ⟨0, 0, n⟩, done := true } := by
  rw [bcdBytes_four]
  exact sendBytes_eq _ n s

/-! ## Power and lock (R140 to R143) -/

/-- Settles O14: the wake prefix stands before PWR_ON's FA frame alone. -/
theorem powerCommandsEmit : Obligations.PowerCommandsEmit := fun _ s =>
  ⟨fun h => decode_of_selector h trivial, sendBytes_eq (wakePrefix s.cfg ++ frameA s.cfg.opcPwrOn) 0 s,
    fun h => decode_of_selector h trivial, sendBytes_frameA s.cfg.opcPwrOff 0 s⟩

/-- Settles O15: both send an FA frame. -/
theorem lockCommandsEmit : Obligations.LockCommandsEmit := fun _ s =>
  ⟨fun h => decode_of_selector h trivial, sendBytes_frameA s.cfg.opcLockOn 1 s,
    fun h => decode_of_selector h trivial, sendBytes_frameA s.cfg.opcLockOff 1 s⟩

/-! ## Frequency and mode (R144 to R146) -/

/-- Settles O16: BCD_BYTES of eight digits are the four bytes of the frame. -/
theorem setFreqEmitsEightDigits : Obligations.SetFreqEmitsEightDigits := fun _ f s =>
  ⟨fun h => decode_of_selector h rfl, sendBytes_frameC_eight f s.cfg.opcFreqSet 1 s⟩

/-- Settles O17: it sends an FA frame. -/
theorem readFreqModeEmits : Obligations.ReadFreqModeEmits := fun _ s =>
  ⟨fun h => decode_of_selector h trivial, sendBytes_frameA s.cfg.opcReadFreqMode 5 s⟩

/-- Settles O18: a mode up to 8 is sent in an FB frame, and one over 8 is ignored. -/
theorem setModeChecksRange : Obligations.SetModeChecksRange := fun _ m s =>
  ⟨fun h => decode_of_selector h rfl,
    fun hm => (execSetMode_legal hm s).trans (sendBytes_frameB (modeByte m) s.cfg.opcModeSet 1 s),
    fun hm => (execSetMode_over hm s).trans (congrArg _ (ignore_eq .modeRange s))⟩

/-! ## Split, VFO and PTT (R147 to R151) -/

/-- Settles O19: all five send an FA frame. -/
theorem splitVfoPttCommandsEmit : Obligations.SplitVfoPttCommandsEmit := fun _ s =>
  ⟨fun h => decode_of_selector h trivial, sendBytes_frameA s.cfg.opcSplitOn 1 s,
    fun h => decode_of_selector h trivial, sendBytes_frameA s.cfg.opcSplitOff 1 s,
    fun h => decode_of_selector h trivial, sendBytes_frameA s.cfg.opcVfoSwap 1 s,
    fun h => decode_of_selector h trivial, sendBytes_frameA s.cfg.opcPttOn 1 s,
    fun h => decode_of_selector h trivial, sendBytes_frameA s.cfg.opcPttOff 1 s⟩

/-! ## Repeater shift (R152, R153) -/

theorem directionCode_of_pos (c : Config) (h : 0 < o) : directionCode c o = c.dirPlus := if_pos h

theorem directionCode_of_neg (c : Config) (h : o < 0) : directionCode c o = c.dirMinus :=
  (if_neg h.asymm).trans (if_pos h)

@[simp] theorem directionCode_zero (c : Config) : directionCode c 0 = c.dirSimplex := rfl

theorem exec_rptDir (o : Int) (s : State) :
    exec (.rptDir o) s = .next { s with
      wire := s.wire ++ [directionCode s.cfg o, 0x00, 0x00, 0x00, s.cfg.opcRptShift]
      outs := ⟨0, 0, 1⟩, done := true } :=
  sendBytes_frameB (directionCode s.cfg o) s.cfg.opcRptShift 1 s

/-- Settles O20, by the sign of the offset. -/
theorem rptDirSelectsBySign : Obligations.RptDirSelectsBySign := by
  refine fun cw o s => ⟨fun h => decode_of_selector h rfl, fun hpos => ?_, fun hneg => ?_, fun hzero => ?_⟩
  · rw [exec_rptDir, directionCode_of_pos _ hpos]
  · rw [exec_rptDir, directionCode_of_neg _ hneg]
  · rw [exec_rptDir, hzero, directionCode_zero]

theorem exec_rptOffset (o : Int) (s : State) :
    exec (.rptOffset o) s = sendBytes (frameC (bcdBytes (magnitude o) 8) s.cfg.opcRptOffset) 1 s := rfl

/-- Settles O21: an offset of either sign has its magnitude, a natural number, encoded as SET_FREQ encodes its operand. -/
theorem rptOffsetEmitsMagnitude : Obligations.RptOffsetEmitsMagnitude := by
  refine fun cw mag o s => ⟨fun h => decode_of_selector h rfl, fun ho => ?_⟩
  have hmag : magnitude o = mag := Int.natAbs_eq_iff.mpr ho
  rw [exec_rptOffset, hmag, sendBytes_frameC_eight]

/-! ## CTCSS (R154 to R156) -/

/-- Settles O22: the encoder commands send their sub-code in an FB frame, the tone goes as four digits and two fillers. -/
theorem ctcssCommandsEmit : Obligations.CtcssCommandsEmit := fun _ t s =>
  ⟨fun h => decode_of_selector h trivial, sendBytes_frameB s.cfg.ctcssEncOnCode s.cfg.opcCtcssMode 1 s,
    fun h => decode_of_selector h trivial, sendBytes_frameB s.cfg.ctcssOffCode s.cfg.opcCtcssMode 1 s,
    fun h => decode_of_selector h rfl, sendBytes_frameC_four t s.cfg.opcCtcssFreq 1 s⟩

/-! ## Reads (R157 to R161) -/

/-- Settles O23: all three send an FA frame. -/
theorem statusReadsEmit : Obligations.StatusReadsEmit := fun _ s =>
  ⟨fun h => decode_of_selector h trivial, sendBytes_frameA s.cfg.opcTxMeters 1 s,
    fun h => decode_of_selector h trivial, sendBytes_frameA s.cfg.opcTxState 1 s,
    fun h => decode_of_selector h trivial, sendBytes_frameA s.cfg.opcRxStatus 1 s⟩

theorem exec_readTxState2_of_some {opc : Byte} {s : State} (h : s.cfg.opcTxState2 = some opc) :
    exec .readTxState2 s = sendBytes (frameA opc) 1 s := by
  simp only [exec, execReadTxState2, h]

theorem exec_readTxState2_of_none {s : State} (h : s.cfg.opcTxState2 = none) :
    exec .readTxState2 s = .refused .opcTxState2NotSupplied := by
  simp only [exec, execReadTxState2, h]

/-- Settles O24, by whether the instance has the opcode. -/
theorem readTxState2NeedsItsOpcode : Obligations.ReadTxState2NeedsItsOpcode := fun _ s =>
  ⟨fun h => decode_of_selector h trivial,
    fun opc hopc => (exec_readTxState2_of_some hopc).trans (sendBytes_frameA opc 1 s),
    fun hnone => exec_readTxState2_of_none hnone⟩

/-- Settles O25: the address bytes and the fillers are the four data bytes of the frame. -/
theorem readEepromEmitsAddress : Obligations.ReadEepromEmitsAddress := fun _ a s =>
  ⟨fun h => decode_of_selector h rfl,
    sendBytes_eq (frameC [addrHi a, addrLo a, fill, fill] s.cfg.opcEepromRead) s.cfg.eepromRespLen s⟩

end Sys2Proof.Machine
end

section
/-! The host interface (48_host_interface.md): the transport and its timed reads, the answers decoded from them, the labels, and
the two sequences. -/

namespace Sys2Proof.Machine

variable {t t' : Transport} {h h' : HostSide} {i : Instr} {a r q : List Byte} {more : List (List Byte)}

/-! ## The transport (R180, R181, R236) -/

theorem issue_ok (hi : issue i h = .ok h') :
    exec i h.block = .next h'.block ∧
      h'.transport = h.transport.writeBytes (h'.block.wire.drop h.block.wire.length) := by
  simp only [issue] at hi
  split at hi
  case h_1 s hs =>
    cases hi
    exact ⟨hs, rfl⟩
  case h_2 => cases hi
  case h_3 f _ => exact nomatch f

theorem writeBytes_eq (t : Transport) (bs : List Byte) :
    t.writeBytes bs = if t.isOpen then { t with sent := t.sent ++ bs } else t := by
  split
  case isTrue ho => exact writeBytes_open ho bs
  case isFalse ho => exact writeBytes_closed (Bool.eq_false_of_not_eq_true ho) bs

/-- Over a transport that was never opened nothing arrives (log 17), so with nothing unread a read times out. -/
theorem readOneByte_closed (ho : t.isOpen = false) (hu : t.bytesAvailable = 0) : t.readOneByte = (none, t) := by
  have hnil : t.unread = [] := List.eq_nil_of_length_eq_zero hu
  simp [Transport.readOneByte, Transport.poll, Transport.readByte, ho, hnil]

/-- Settles O52: what a command appends to the wire is what `issue` writes, and writing carries it exactly when the transport is
open. -/
theorem transportCarriesEmittedBytes : Obligations.TransportCarriesEmittedBytes := by
  refine ⟨fun _ _ => ⟨rfl, rfl, rfl⟩, fun i h h' hi => ?_, fun t => ⟨rfl, rfl, readOneByte_closed⟩⟩
  obtain ⟨hexec, htransport⟩ := issue_ok hi
  obtain ⟨_, out, _, hstep, -⟩ := exec_next hexec
  have hwire : h'.block.wire = h.block.wire ++ out := by rw [hstep]
  refine ⟨hexec, out, hwire, ?_⟩
  rw [htransport, hwire, List.drop_left, writeBytes_eq]

/-! ## Timed reads (R184, R185) -/

/-- A single-byte read takes the first byte of the stream or, on a timeout, none. -/
theorem readOneByte_stream {r : Option Byte} (hr : t.readOneByte = (r, t')) :
    r.toList ++ (t'.unread ++ t'.arrivals.flatten) = t.unread ++ t.arrivals.flatten ∧ t'.sent = t.sent := by
  rw [Transport.readOneByte, readByte_eq, Prod.mk.injEq] at hr
  obtain ⟨rfl, rfl⟩ := hr
  refine ⟨?_, poll_sent t⟩
  rw [← poll_stream t]
  cases t.poll.unread <;> rfl

/-- A longer response ends at a timeout of its first read, or goes on with the rest. -/
theorem readBytes_succ {n : Nat} {rs : List (Option Byte)} (hr : t.readBytes (n + 1) = (rs, t')) :
    (t.readOneByte = (none, t') ∧ rs = [none]) ∨
    ∃ b u rs', t.readOneByte = (some b, u) ∧ u.readBytes n = (rs', t') ∧ rs = some b :: rs' := by
  simp only [Transport.readBytes] at hr
  split at hr
  case h_1 u hu =>
    cases hr
    exact .inl ⟨hu, rfl⟩
  case h_2 b u hu =>
    cases hr
    exact .inr ⟨b, u, _, hu, rfl, rfl⟩

/-- A response is the stream's next bytes: all n of them, or fewer and the timeout that ended it (log 29). -/
theorem readBytes_stream {n : Nat} {rs : List (Option Byte)} (hr : t.readBytes n = (rs, t')) :
    ∃ bs : List Byte,
      ((rs = bs.map some ∧ bs.length = n) ∨ (rs = bs.map some ++ [none] ∧ bs.length < n)) ∧
      bs ++ (t'.unread ++ t'.arrivals.flatten) = t.unread ++ t.arrivals.flatten ∧ t'.sent = t.sent := by
  induction n generalizing t rs with
  | zero =>
    cases hr
    exact ⟨[], .inl ⟨rfl, rfl⟩, rfl, rfl⟩
  | succ n ih =>
    obtain ⟨hread, rfl⟩ | ⟨b, u, rs', hread, hrest, rfl⟩ := readBytes_succ hr
    · exact ⟨[], .inr ⟨rfl, Nat.succ_pos n⟩, readOneByte_stream hread⟩
    · obtain ⟨hstream, hsent⟩ := readOneByte_stream hread
      obtain ⟨bs, hshape, hstream', hsent'⟩ := ih hrest
      refine ⟨b :: bs, ?_, ?_, hsent'.trans hsent⟩
      · obtain ⟨rfl, hlen⟩ | ⟨rfl, hlen⟩ := hshape
        · exact .inl ⟨rfl, congrArg Nat.succ hlen⟩
        · exact .inr ⟨rfl, Nat.succ_lt_succ hlen⟩
      · rw [← hstream, ← hstream']
        rfl

theorem exists_eq_cons_five {α : Type} {q : List α} (hl : 5 ≤ q.length) :
    ∃ r0 r1 r2 r3 r4 rest, q = r0 :: r1 :: r2 :: r3 :: r4 :: rest := by
  match q, hl with
  | r0 :: r1 :: r2 :: r3 :: r4 :: rest, _ => exact ⟨r0, r1, r2, r3, r4, rest, rfl⟩

/-- A READ_FREQ_MODE read takes five bytes of the stream, or none where fewer than five are available. -/
theorem readFrequencyAndMode_cases {r : Option (Word × Byte)} (hr : t.readFrequencyAndMode = (r, t')) :
    (∃ w m, r = some (w, m) ∧ t.poll.unread = wordBytes w ++ m :: t'.unread ∧
      t' = { t.poll with unread := t'.unread }) ∨
    (r = none ∧ t' = t.poll ∧ t.poll.unread.length < 5) := by
  simp only [Transport.readFrequencyAndMode] at hr
  split at hr
  case h_1 r0 r1 r2 r3 r4 rest hq =>
    cases hr
    exact .inl ⟨_, _, rfl, by rw [hq, wordBytes_packBytes]; rfl, rfl⟩
  case h_2 hq =>
    cases hr
    refine .inr ⟨rfl, rfl, Nat.lt_of_not_le fun hl => ?_⟩
    obtain ⟨_, _, _, _, _, _, hfive⟩ := exists_eq_cons_five hl
    exact hq _ _ _ _ _ _ hfive

/-- Settles O53: every timed read takes the front of the stream. -/
theorem readsTakeTheStreamInOrder : Obligations.ReadsTakeTheStreamInOrder := by
  refine ⟨fun n t t' rs h => ?_, fun t t' w m h => ?_, fun t t' h => ?_⟩
  · obtain ⟨bs, ⟨rfl, hlen⟩ | ⟨rfl, hlen⟩, hstream, hsent⟩ := readBytes_stream h
    · refine ⟨by simp [hlen], by simp [hlen], fun x hx => ?_, by simpa using hstream, hsent⟩
      obtain ⟨b, -, rfl⟩ := List.mem_map.mp (List.mem_of_mem_dropLast hx)
      exact Option.some_ne_none b
    · exact ⟨by simpa using hlen, by simp, by simp, by simpa using hstream, hsent⟩
  · obtain ⟨_, _, hr, hq, ht⟩ | ⟨hr, -⟩ := readFrequencyAndMode_cases h
    · cases hr
      refine ⟨?_, by rw [ht]; exact poll_sent t⟩
      rw [← poll_stream t, hq, ht]
      simp
    · cases hr
  · obtain ⟨_, _, hr, -⟩ | ⟨-, rfl, hlen⟩ := readFrequencyAndMode_cases h
    · cases hr
    · exact ⟨poll_stream t, hlen, poll_sent t⟩

/-! ## The lock acknowledgement (R188) -/

/-- LOCK_ON or LOCK_OFF over an open transport: the acknowledgement is the first byte available after the frame is sent. -/
theorem setLock_open (on : Bool) (ho : h.transport.isOpen = true) (ha : h.transport.arrivals = a :: more) :
    ∃ s, setLock on h = .ok (lockedFrom on (sentinelByte (h.transport.unread ++ a).head?),
      { h with
        block := s
        transport :=
          { h.transport with
            sent := h.transport.sent ++ frameA (if on then h.block.cfg.opcLockOn else h.block.cfg.opcLockOff)
            unread := (h.transport.unread ++ a).tail
            arrivals := more }
        wasLocked := lockedFrom on (sentinelByte (h.transport.unread ++ a).head?) }) := by
  have hexec : exec (if on then .lockOn else .lockOff) h.block =
      sendBytes (frameA (if on then h.block.cfg.opcLockOn else h.block.cfg.opcLockOff)) 1 h.block := by
    cases on <;> rfl
  simp only [setLock, acknowledged_open ho hexec rfl rfl ha, bind, Except.bind, pure, Except.pure]
  exact ⟨_, rfl⟩

/-- The two comparisons with 240, as numbers. -/
theorem lockedFrom_eq_decide (on : Bool) (b : Byte) :
    lockedFrom on b = if on then decide (b.toNat = 240) else decide (b.toNat ≠ 240) := by
  have hb : b = 0xF0 ↔ b.toNat = 240 := (BitVec.toNat_inj (y := (0xF0 : Byte))).symm
  cases on <;> simp [lockedFrom, ← hb, bne, Bool.beq_eq_decide_eq]

/-- A timeout reads as the sentinel 0, which is not 240. -/
theorem lockedFrom_timeout (on : Bool) : lockedFrom on (sentinelByte none) = !on := by
  cases on <;> rfl

/-- Settles O54, by what is available to the read: a first byte, or nothing. -/
theorem lockAcknowledgement : Obligations.LockAcknowledgement := by
  intro on h a more ho ha
  obtain ⟨s, hlock⟩ := setLock_open on ho ha
  refine ⟨_, _, hlock, rfl, fun b rest hq => ?_, fun hq => ?_, rfl, rfl, rfl⟩
  · rw [hq]
    exact lockedFrom_eq_decide on b
  · rw [hq]
    exact lockedFrom_timeout on

/-! ## The frequency answer (R185 to R187) -/

/-- What a READ_FREQ_MODE read makes of the bytes available to it. -/
def frequencyReading (c : HostConfig) (q : List Byte) : Option FrequencyReading :=
  if 5 ≤ q.length then some ⟨decodeBytes (q.take 4), q.getD 4 0, modeLabel c (q.getD 4 0)⟩ else none

/-- What it leaves unread. -/
def leftByFrequencyRead (q : List Byte) : List Byte := if 5 ≤ q.length then q.drop 5 else q

theorem frequencyReading_of_five (c : HostConfig) {q : List Byte} (hl : 5 ≤ q.length) :
    frequencyReading c q = some ⟨decodeBytes (q.take 4), q.getD 4 0, modeLabel c (q.getD 4 0)⟩ := if_pos hl

theorem frequencyReading_of_short (c : HostConfig) {q : List Byte} (hl : q.length < 5) : frequencyReading c q = none :=
  if_neg (Nat.not_le.mpr hl)

theorem leftByFrequencyRead_of_five {q : List Byte} (hl : 5 ≤ q.length) : leftByFrequencyRead q = q.drop 5 := if_pos hl

theorem leftByFrequencyRead_of_short {q : List Byte} (hl : q.length < 5) : leftByFrequencyRead q = q :=
  if_neg (Nat.not_le.mpr hl)

/-- READ_FREQ_MODE over an open transport: the frame, the reading of the bytes available, and the caches, which hold the reading
or, on a timeout, what they held (log 31). -/
theorem readFrequency_open (ho : h.transport.isOpen = true) (ha : h.transport.arrivals = a :: more)
    (hq : h.transport.unread ++ a = q) :
    ∃ h', readFrequency h = .ok (frequencyReading h.hcfg q, h') ∧
      h'.transport.isOpen = true ∧ h'.transport.unread = leftByFrequencyRead q ∧ h'.transport.arrivals = more ∧
      h'.block.cfg = h.block.cfg ∧ h'.block.wire = h.block.wire ++ frameA h.block.cfg.opcReadFreqMode ∧
      h'.freq = ((frequencyReading h.hcfg q).map (·.freq)).getD h.freq ∧
      h'.mode = ((frequencyReading h.hcfg q).map fun r => (r.modeByte, r.label)).getD h.mode := by
  rcases Nat.lt_or_ge q.length 5 with hl | hl
  · obtain ⟨s, hread, hcfg, hwire⟩ := readFrequency_timeout ho ha (hq ▸ hl)
    rw [frequencyReading_of_short _ hl, leftByFrequencyRead_of_short hl, ← hq]
    exact ⟨_, hread, ho, rfl, rfl, hcfg, hwire, rfl, rfl⟩
  · rw [frequencyReading_of_five _ hl, leftByFrequencyRead_of_five hl]
    obtain ⟨r0, r1, r2, r3, r4, rest, rfl⟩ := exists_eq_cons_five hl
    obtain ⟨s, hread, hcfg, hwire⟩ := readFrequency_answer ho ha hq
    exact ⟨_, hread, ho, rfl, rfl, hcfg, hwire, rfl, rfl⟩

/-- Settles O55, by whether five bytes are available. -/
theorem frequencyAnswerIsUnpacked : Obligations.FrequencyAnswerIsUnpacked := by
  intro h a q more ho ha hq
  obtain ⟨h', hread, -, hunread, harrivals, -, hwire, hfreq, hmode⟩ := readFrequency_open ho ha hq.symm
  refine ⟨h', _, hread, harrivals, hwire, fun hl => ?_, fun hl => ?_⟩
  · rw [frequencyReading_of_five _ hl] at hfreq hmode ⊢
    exact ⟨rfl, hfreq, hmode, by rw [hunread, leftByFrequencyRead_of_five hl]⟩
  · rw [frequencyReading_of_short _ hl] at hfreq hmode ⊢
    exact ⟨rfl, hfreq, hmode, by rw [hunread, leftByFrequencyRead_of_short hl]⟩

/-! ## The TX meters (R190) -/

theorem endsMeterRead_iff (s0 : Byte) : endsMeterRead s0 = true ↔ s0.toNat = 0 ∨ s0.toNat = 255 := by
  simp [endsMeterRead, ← BitVec.toNat_inj]

/-! READ_TX_METERS once its frame is sent, by what its reads find. The caches a case does not name stay (log 31). -/

section
variable {s0 s1 : Byte} (hi : issue .readTxMeters h = .ok h')
include hi

theorem readMeters_firstTimeout (hr : h'.transport.readOneByte = (none, t)) :
    readMeters h = .ok (none, { h' with transport := t }) := by
  simp only [readMeters, hi, hr, bind, Except.bind, pure, Except.pure]

theorem readMeters_notTransmitting (hr : h'.transport.readOneByte = (some s0, t)) (hs : endsMeterRead s0 = true) :
    readMeters h = .ok (some .notTransmitting, { h' with transport := t, tx := false }) := by
  simp only [readMeters, hi, hr, hs, if_true, bind, Except.bind, pure, Except.pure]

theorem readMeters_secondTimeout (hr : h'.transport.readOneByte = (some s0, t)) (hs : ¬endsMeterRead s0 = true)
    (hr' : t.readOneByte = (none, t')) : readMeters h = .ok (none, { h' with transport := t' }) := by
  simp only [readMeters, hi, hr, if_neg hs, hr', bind, Except.bind, pure, Except.pure]

theorem readMeters_levels (hr : h'.transport.readOneByte = (some s0, t)) (hs : ¬endsMeterRead s0 = true)
    (hr' : t.readOneByte = (some s1, t')) :
    readMeters h = .ok (some (meterLevels h'.hcfg.meterMap s0 s1),
      { h' with
        transport := t'
        tx := true
        pwr := meterNibble s0 s1 h'.hcfg.meterMap.pwr
        alc := meterNibble s0 s1 h'.hcfg.meterMap.alc
        swr := meterNibble s0 s1 h'.hcfg.meterMap.swr
        mod := meterNibble s0 s1 h'.hcfg.meterMap.mod }) := by
  simp only [readMeters, hi, hr, if_neg hs, hr', bind, Except.bind, pure, Except.pure]

end

/-- Settles O56, by what is available to the first read, whether its byte ends the answer, and what is available to the second. -/
theorem txMetersAnswer : Obligations.TxMetersAnswer := by
  intro h a0 a1 more ho ha
  have hi := issue_open (i := .readTxMeters) ho rfl rfl
  have hread := readOneByte_open
    (t := { h.transport with sent := h.transport.sent ++ frameA h.block.cfg.opcTxMeters }) ho ha
  rcases hq : h.transport.unread ++ a0 with _ | ⟨s0, rest⟩ <;> simp only [hq] at hread
  case nil =>
    exact ⟨_, _, readMeters_firstTimeout hi hread, rfl, fun _ => ⟨rfl, rfl, ⟨rfl, rfl, rfl, rfl⟩, rfl, rfl⟩, nofun⟩
  case cons =>
    have hread' := readOneByte_open
      (t := { h.transport with
        sent := h.transport.sent ++ frameA h.block.cfg.opcTxMeters, unread := rest, arrivals := a1 :: more }) ho rfl
    by_cases hs : endsMeterRead s0 = true
    · have hends := (endsMeterRead_iff s0).mp hs
      refine ⟨_, _, readMeters_notTransmitting hi hread hs, rfl, nofun, ?_⟩
      rintro _ _ ⟨⟩
      exact ⟨fun _ => ⟨rfl, rfl, ⟨rfl, rfl, rfl, rfl⟩, rfl, rfl⟩,
        fun hzero hmax => absurd hends (not_or.mpr ⟨hzero, hmax⟩)⟩
    · have hgoes := mt (endsMeterRead_iff s0).mpr hs
      rcases hq' : rest ++ a1 with _ | ⟨s1, rest'⟩ <;> simp only [hq'] at hread'
      case nil =>
        refine ⟨_, _, readMeters_secondTimeout hi hread hs hread', rfl, nofun, ?_⟩
        rintro _ _ ⟨⟩
        exact ⟨fun hends => absurd hends hgoes, fun _ _ => ⟨rfl, fun _ => ⟨rfl, rfl, ⟨rfl, rfl, rfl, rfl⟩, rfl⟩,
          fun _ _ hc => (nomatch hq'.symm.trans hc)⟩⟩
      case cons =>
        refine ⟨_, _, readMeters_levels hi hread hs hread', rfl, nofun, ?_⟩
        rintro _ _ ⟨⟩
        refine ⟨fun hends => absurd hends hgoes, fun _ _ => ⟨rfl, fun hc => (nomatch hq'.symm.trans hc), ?_⟩⟩
        intro _ _ hc
        cases hq'.symm.trans hc
        refine ⟨rfl, rfl, rfl, fun hmap => ?_⟩
        simp only [hmap]
        exact ⟨hi_toNat s0, lo_toNat s0, hi_toNat s1, lo_toNat s1⟩

/-! ## Labels (R187, R192) -/

/-- Searching a table by its keys and taking the value is a lookup. -/
theorem map_snd_find?_eq_lookup {α β : Type} [DecidableEq α] (rows : List (α × β)) (k : α) :
    (rows.find? fun e => e.1 == k).map Prod.snd = rows.lookup k := by
  induction rows with
  | nil => rfl
  | cons row rows ih =>
    rw [List.find?_cons, List.lookup_cons, BEq.comm (a := row.1)]
    cases k == row.1 with
    | true => rfl
    | false => exact ih

theorem lookup_eq_none_of_not_mem {α β : Type} [DecidableEq α] {rows : List (α × β)} {k : α}
    (hmem : k ∉ rows.map Prod.fst) : rows.lookup k = none := by
  refine List.lookup_eq_none_iff.mpr fun p hp => bne_iff_ne.mpr ?_
  rintro rfl
  exact hmem (List.mem_map_of_mem hp)

theorem modeLabel_eq_lookup (c : HostConfig) (b : Byte) :
    modeLabel c b = ((c.modeCodes.lookup b).map modeText).getD "" := by
  rw [modeLabel, ← map_snd_find?_eq_lookup]
  cases c.modeCodes.find? fun e => e.1 == b <;> rfl

theorem sMeterLabel_eq_lookup (c : HostConfig) (b : Byte) :
    sMeterLabel c b = ((c.smeterCodes.zip sMeterLabels).lookup b).getD "S0" := by
  rw [sMeterLabel, ← map_snd_find?_eq_lookup]
  cases (c.smeterCodes.zip sMeterLabels).find? fun e => e.1 == b <;> rfl

theorem hostConfig_wf {c : HostConfig} (hc : c.wf = true) :
    (c.modeCodes.map Prod.fst).Nodup ∧ c.smeterCodes.Nodup ∧ c.smeterCodes.length = 16 := by
  simp only [HostConfig.wf, Bool.and_eq_true, decide_eq_true_eq, beq_iff_eq] at hc
  obtain ⟨⟨⟨⟨hmodes, -⟩, hcodes⟩, hlen⟩, -⟩ := hc
  exact ⟨hmodes, hcodes, hlen⟩

/-- Sixteen codes stand beside sixteen labels, so the table's keys are the codes. -/
theorem keys_sMeterTable {c : HostConfig} (hlen : c.smeterCodes.length = 16) :
    (c.smeterCodes.zip sMeterLabels).map Prod.fst = c.smeterCodes := List.map_fst_zip (Nat.le_of_eq hlen)

/-- Settles O57: both labels are lookups in a table of distinct keys. -/
theorem labelsOfAnswers : Obligations.LabelsOfAnswers := by
  intro c b hc
  obtain ⟨hmodes, hcodes, hlen⟩ := hostConfig_wf hc
  have hkeys := keys_sMeterTable hlen
  refine ⟨fun m hm => ?_, fun hb => ?_, fun i hi hcode => ?_, fun hb => ?_⟩
  · rw [modeLabel_eq_lookup, lookup_eq_some_of_mem hmodes hm]
    rfl
  · rw [modeLabel_eq_lookup, lookup_eq_none_of_not_mem hb]
    rfl
  · have hlabel : sMeterLabels[i]? = some (sMeterLabels[i]'hi) := List.getElem?_eq_getElem hi
    have hrow := List.mem_of_getElem? (List.getElem?_zip_eq_some (z := (b, sMeterLabels[i]'hi)).mpr ⟨hcode, hlabel⟩)
    rw [sMeterLabel_eq_lookup, lookup_eq_some_of_mem (hkeys.symm ▸ hcodes) hrow, hlabel]
    rfl
  · rw [sMeterLabel_eq_lookup, lookup_eq_none_of_not_mem (hkeys.symm ▸ hb)]
    rfl

/-! ## Sequences (R194, R195) -/

/-- A framed command with one acknowledgement byte over an open transport: the byte is read after the frame is sent. -/
theorem acknowledged_frame {out : List Byte} (ho : h.transport.isOpen = true) (ha : h.transport.arrivals = a :: more)
    (hq : h.transport.unread ++ a = q)
    (he : exec i h.block =
      .next { h.block with wire := h.block.wire ++ out, outs := ⟨0, 0, 1⟩, done := true }) :
    ∃ h', acknowledged i h = .ok (q.head?, h') ∧
      h'.transport.isOpen = true ∧ h'.transport.sent = h.transport.sent ++ out ∧ h'.transport.unread = q.tail ∧
      h'.transport.arrivals = more ∧ h'.block.cfg = h.block.cfg ∧ h'.block.wire = h.block.wire ++ out := by
  subst hq
  exact ⟨_, acknowledged_open ho he rfl rfl ha, ho, rfl, rfl, rfl, rfl, rfl⟩

/-- Settles O58: each of the two acknowledged round trips reads one byte, and the second starts where the first ends. -/
theorem repeaterSequence : Obligations.RepeaterSequence := by
  intro off h a1 a2 q1 q2 more ho ha hq1 hq2 direction offset
  obtain ⟨h1, hdir, ho1, hsent1, hunread1, harrivals1, hcfg1, hwire1⟩ :=
    acknowledged_frame ho ha hq1.symm (exec_rptDir off h.block)
  obtain ⟨h2, hoff, -, hsent2, hunread2, harrivals2, -, hwire2⟩ :=
    acknowledged_frame (i := .rptOffset off) (q := q2) ho1 harrivals1 (by rw [hunread1, hq2]) (sendBytes_frameC_eight _ _ _ _)
  have hseq : setRepeaterShift off h = .ok ((q1.head?, q2.head?), h2) := by
    simp only [setRepeaterShift, hdir, hoff, bind, Except.bind, pure, Except.pure]
  refine ⟨h1, h2, hdir, hwire1, hsent1, hunread1, harrivals1, hoff, hseq, ?_, ?_, hunread2, harrivals2⟩
  · rw [hwire2, hwire1, hcfg1]
    exact List.append_assoc _ _ _
  · rw [hsent2, hsent1, hcfg1]
    exact List.append_assoc _ _ _

/-- The bytes of one cycle of the verified set: SET_FREQ's frame, then READ_FREQ_MODE's. -/
def cycleBytes (c : Config) (f : Nat) : List Byte :=
  [decimalByte f 6, decimalByte f 4, decimalByte f 2, decimalByte f 0, c.opcFreqSet] ++ frameA c.opcReadFreqMode

theorem frequencyReading_matches (c : HostConfig) (q : List Byte) (f : Nat) :
    ((frequencyReading c q).map FrequencyReading.freq == some f) =
      decide (5 ≤ q.length ∧ decodeBytes (q.take 4) = f) := by
  rcases Nat.lt_or_ge q.length 5 with hl | hl
  · simp [frequencyReading_of_short c hl, Nat.not_le.mpr hl]
  · simp [frequencyReading_of_five c hl, hl, Bool.beq_eq_decide_eq]

/-- One cycle over an open transport, q the bytes available to its READ_FREQ_MODE read. A timeout of SET_FREQ's acknowledgement
does not end it (log 32). -/
theorem verifyCycle_open (f : Nat) (ho : h.transport.isOpen = true) (ha : h.transport.arrivals = a :: r :: more)
    (hq : (h.transport.unread ++ a).tail ++ r = q) :
    ∃ h', verifyCycle f h = .ok (decide (5 ≤ q.length ∧ decodeBytes (q.take 4) = f), h') ∧
      h'.transport.isOpen = true ∧ h'.transport.unread = leftByFrequencyRead q ∧ h'.transport.arrivals = more ∧
      h'.block.cfg = h.block.cfg ∧ h'.block.wire = h.block.wire ++ cycleBytes h.block.cfg f := by
  obtain ⟨h1, hset, ho1, -, hunread1, harrivals1, hcfg1, hwire1⟩ :=
    acknowledged_frame (i := .setFreq f) ho ha rfl (sendBytes_frameC_eight _ _ _ _)
  obtain ⟨h2, hread, ho2, hunread2, harrivals2, hcfg2, hwire2, -, -⟩ :=
    readFrequency_open ho1 harrivals1 (by rw [hunread1, hq])
  refine ⟨h2, ?_, ho2, hunread2, harrivals2, hcfg2.trans hcfg1, ?_⟩
  · simp only [verifyCycle, hset, hread, frequencyReading_matches, bind, Except.bind, pure, Except.pure]
  · rw [hwire2, hwire1, hcfg1]
    exact List.append_assoc _ _ _

/-- Settles O59: one cycle or two, each as `verifyCycle_open` says, the second in the state the first leaves. -/
theorem verifiedSetRunsAtMostTwice : Obligations.VerifiedSetRunsAtMostTwice := by
  intro f h a1 r1 a2 r2 p1 p2 more ho ha hp1 hp2 matches1 matches2 cycle
  obtain ⟨h1, hcycle, ho1, hunread, harrivals, hcfg, hwire⟩ := verifyCycle_open f ho ha hp1.symm
  refine ⟨fun hm : 5 ≤ p1.length ∧ decodeBytes (p1.take 4) = f => ⟨h1, ?_, hwire, harrivals⟩,
    fun hm : ¬(5 ≤ p1.length ∧ decodeBytes (p1.take 4) = f) => ?_⟩
  · simp only [verifiedSetFreq, hcycle, decide_eq_true hm, if_true, bind, Except.bind, pure, Except.pure]
  · obtain ⟨h2, hcycle2, -, -, harrivals2, -, hwire2⟩ :=
      verifyCycle_open f ho1 harrivals (q := p2) (by rw [hunread, hp2]; rfl)
    refine ⟨h2, ?_, ?_, harrivals2⟩
    · simp only [verifiedSetFreq, hcycle, decide_eq_false hm, bind, Except.bind]
      exact hcycle2
    · rw [hwire2, hwire, hcfg]
      exact List.append_assoc _ _ _

end Sys2Proof.Machine
end

section
/-! Exceptions (60_exceptions.md): every command word completes with the code of R211, but for the one refusal of R159, and a step
has no other refusal and no fault. -/

namespace Sys2Proof.Machine

variable {s t : State} {cw : CmdWord} {p : PortIn} {i : Instr} {r : Refusal}

/-! ## What a command can answer (R210, R211) -/

/-- A command lacks its opcode: READ_TX_STATE2 in an instance that does not supply OPC_TX_STATE2 (42_commands.md R159). -/
def LacksOpcode (c : Config) (i : Instr) : Prop := i = .readTxState2 ∧ c.opcTxState2 = none

theorem sendBytes_completes (bs : List Byte) (n : BitVec 3) (s : State) :
    ∃ t, sendBytes bs n s = .next t ∧ t.outs.status = statusCode .ok := ⟨_, rfl, rfl⟩

/-- A command that does not lack its opcode completes with the code of its cause. -/
theorem exec_completes (h : ¬LacksOpcode s.cfg i) :
    ∃ t, exec i s = .next t ∧ t.outs.status = statusCode (causeOf i) := by
  cases i
  case enc v n =>
    rcases Nat.lt_or_ge 8 n with hn | hn
    · exact ⟨_, execEnc_over hn v s, by simp [causeOf, Nat.not_le.mpr hn]⟩
    · exact ⟨_, execEnc_legal hn v s, by simp [causeOf, hn]⟩
  case dec w k =>
    rcases Nat.lt_or_ge 4 k with hk | hk
    · exact ⟨_, execDec_over hk w s, by simp [causeOf, Nat.not_le.mpr hk]⟩
    · exact ⟨_, execDec_legal hk w s, by simp [causeOf, hk]⟩
  case setMode m =>
    rcases Nat.lt_or_ge 8 m with hm | hm
    · exact ⟨_, execSetMode_over hm s, by simp [causeOf, Nat.not_le.mpr hm]⟩
    · exact ⟨_, execSetMode_legal hm s, by simp [causeOf, hm, statusCode]⟩
  case readTxState2 =>
    obtain ⟨opc, hopc⟩ := Option.ne_none_iff_exists'.mp fun hnone => h ⟨rfl, hnone⟩
    exact ⟨_, exec_readTxState2_of_some hopc, rfl⟩
  all_goals exact sendBytes_completes _ _ s

/-- The code a completing command shows is that of its cause. -/
theorem exec_status (h : exec i s = .next t) : t.outs.status = statusCode (causeOf i) := by
  by_cases hl : LacksOpcode s.cfg i
  · obtain ⟨rfl, hnone⟩ := hl
    cases (exec_readTxState2_of_none hnone).symm.trans h
  · obtain ⟨u, hu, hstatus⟩ := exec_completes hl
    cases hu.symm.trans h
    exact hstatus

theorem exec_refused (h : exec i s = .refused r) : r = .opcTxState2NotSupplied ∧ LacksOpcode s.cfg i := by
  by_cases hl : LacksOpcode s.cfg i
  · obtain ⟨rfl, hnone⟩ := hl
    exact ⟨(Host.Outcome.refused.inj ((exec_readTxState2_of_none hnone).symm.trans h)).symm, rfl, hnone⟩
  · obtain ⟨t, ht, -⟩ := exec_completes hl
    cases ht.symm.trans h

/-! ## What a command word can answer (R210, R211; 30_encoding.md R62) -/

theorem runWord_reserved (h : 24 ≤ cw.toNat / 2 ^ 36) (s : State) : runWord cw s = .next (ignore .reservedSel s) := by
  simp only [runWord]
  split
  case h_1 i hd =>
    have hlt := (decode_ok_iff cw).mp ⟨i, hd⟩
    rw [selOf_toNat] at hlt
    exact absurd hlt (Nat.not_lt.mpr h)
  case h_2 => rfl

/-- A word below the reserved selectors runs the command it decodes to. -/
theorem exists_decode_runWord (h : ¬24 ≤ cw.toNat / 2 ^ 36) : ∃ i, decode cw = .ok i ∧ ∀ s, runWord cw s = exec i s := by
  obtain ⟨i, hd⟩ := (decode_ok_iff cw).mpr (by rw [selOf_toNat]; exact Nat.lt_of_not_le h)
  exact ⟨i, hd, runWord_of_decode hd⟩

theorem runWord_refused (h : runWord cw s = .refused r) :
    r = .opcTxState2NotSupplied ∧ s.cfg.opcTxState2 = none ∧ decode cw = .ok .readTxState2 := by
  by_cases hres : 24 ≤ cw.toNat / 2 ^ 36
  · cases (runWord_reserved hres s).symm.trans h
  · obtain ⟨i, hd, hrun⟩ := exists_decode_runWord hres
    obtain ⟨hr, rfl, hnone⟩ := exec_refused ((hrun s).symm.trans h)
    exact ⟨hr, hnone, hd⟩

/-- Settles O31: no word faults, and the one refusal is that of an instance without OPC_TX_STATE2. -/
theorem everyCommandWordCompletes : Obligations.EveryCommandWordCompletes := by
  intro cw s hopc
  cases hr : runWord cw s with
  | next t =>
    obtain ⟨_, _, _, rfl, -⟩ := runWord_next hr
    exact ⟨_, rfl, rfl, rfl, rfl, rfl, rfl⟩
  | fault f => exact nomatch f
  | refused r =>
    obtain ⟨-, hnone, -⟩ := runWord_refused hr
    exact absurd hnone hopc

/-! ## The completion codes (R211) -/

/-- A word that decodes to a command carries its selector and operands: `decode_of_selector` the other way round. -/
theorem selector_of_decode (h : decode cw = .ok i) :
    cw.toNat / 2 ^ 36 = i.selector.toNat ∧ HoldsOperands cw i := by
  rw [← selOf_toNat]
  unfold decode at h
  split at h <;> cases h <;> refine ⟨‹_›, ?_⟩
  all_goals
    simp only [HoldsOperands, uint32_argOf, auxOf_toNat, sint32_argOf_eq_signedArg, addrOf_toNat, and_self]

/-- A word whose operands no cause of R211 names decodes to a command that is not ignored. -/
theorem causeOf_eq_ok_of_decode (h : decode cw = .ok i)
    (henc : ¬(cw.toNat / 2 ^ 36 = 0 ∧ 8 < cw.toNat / 2 ^ 32 % 16))
    (hdec : ¬(cw.toNat / 2 ^ 36 = 1 ∧ 4 < cw.toNat / 2 ^ 32 % 16))
    (hmode : ¬(cw.toNat / 2 ^ 36 = 8 ∧ 8 < cw.toNat % 2 ^ 32)) : causeOf i = .ok := by
  obtain ⟨hsel, hops⟩ := selector_of_decode h
  cases i
  case enc =>
    obtain ⟨-, rfl⟩ := hops
    exact if_pos (Nat.not_lt.mp fun hover => henc ⟨hsel, hover⟩)
  case dec =>
    obtain ⟨-, rfl⟩ := hops
    exact if_pos (Nat.not_lt.mp fun hover => hdec ⟨hsel, hover⟩)
  case setMode =>
    cases hops
    exact if_pos (Nat.not_lt.mp fun hover => hmode ⟨hsel, hover⟩)
  all_goals rfl

/-- Settles O30: each clause names the operands of an ignored word, and a word that no clause names decodes to a command whose
cause is OK. -/
theorem completionCodes : Obligations.CompletionCodes := by
  intro cw s
  refine ⟨fun hres => runWord_reserved hres s, fun hsel hover => ?_, fun hsel hover => ?_, fun hsel hover => ?_,
    fun t ht hres henc hdec hmode => ?_⟩
  · have hd : decode cw = .ok (.enc _ _) := decode_of_selector hsel ⟨rfl, rfl⟩
    exact (runWord_of_decode hd s).trans (execEnc_over hover _ s)
  · have hd : decode cw = .ok (.dec _ _) := decode_of_selector hsel ⟨rfl, rfl⟩
    exact (runWord_of_decode hd s).trans (execDec_over hover _ s)
  · have hd : decode cw = .ok (.setMode _) := decode_of_selector hsel rfl
    exact (runWord_of_decode hd s).trans (execSetMode_over hover s)
  · obtain ⟨i, hd, hrun⟩ := exists_decode_runWord hres
    rw [exec_status ((hrun s).symm.trans ht), causeOf_eq_ok_of_decode hd henc hdec hmode]
    rfl

/-! ## What a step can refuse (R210, R159) -/

theorem acceptWord_refused (h : acceptWord cw s = .refused r) : runWord cw { s with wire := [] } = .refused r := by
  simp only [acceptWord] at h
  split at h <;> cases h
  assumption

/-- Of all an edge can do, only an acceptance can refuse. -/
theorem clockEdge_refused (h : clockEdge p s = .refused r) : acceptWord p.cmdWord s = .refused r := by
  simp only [clockEdge] at h
  split at h
  · cases h
  · split at h
    · split at h <;> cases h
    · split at h
      · exact h
      · cases h

/-- A refusal of a step is that of the command word it runs or of the edge it takes. -/
theorem step_refused (h : step s = .refused r) :
    (∃ cw rest, s.inputs = .command cw :: rest ∧ runWord cw { s with inputs := rest } = .refused r) ∨
    (∃ p rest, s.inputs = .edge p :: rest ∧ clockEdge p { s with inputs := rest } = .refused r) := by
  simp only [step, runInput] at h
  split at h
  case h_1 => cases h
  case h_2 cw rest hin =>
    split at h
    · cases h
    · exact .inl ⟨cw, rest, hin, h⟩
  case h_3 p rest hin => exact .inr ⟨p, rest, hin, h⟩

/-- Settles O38: there is no fault to raise, and a refusal is that of the word which the step runs or the edge accepts. -/
theorem onlyTxState2IsRefused : Obligations.OnlyTxState2IsRefused := by
  refine fun s => ⟨fun f => (nomatch f), fun r h => ?_⟩
  obtain ⟨cw, rest, hin, hr⟩ | ⟨p, rest, hin, he⟩ := step_refused h
  · obtain ⟨hreason, hnone, hd⟩ := runWord_refused hr
    exact ⟨hreason, hnone, .inl ⟨cw, rest, hin, hd⟩⟩
  · obtain ⟨hreason, hnone, hd⟩ := runWord_refused (acceptWord_refused (clockEdge_refused he))
    exact ⟨hreason, hnone, .inr ⟨p, rest, hin, hd⟩⟩

end Sys2Proof.Machine
end

section
/-! Reset (70_reset_and_hazards.md): the parameters of the default instance are well formed, whatever its free OPC_TX_STATE2 is, the
state after reset is an idle block, and what the ports show while `rst` is 1 and in an idle block after it. -/

namespace Sys2Proof.Machine

variable {s : State} {p : PortIn} {c : Config} {b : Byte}

/-! ## The default instance is well formed (30_encoding.md R72, R73) -/

/-- The default instance without OPC_TX_STATE2, the one parameter that is a free byte (R72; log 7). -/
def defaultConfigWithoutTxState2 : Config := { defaultConfig with opcTxState2 := none }

/-- The bytes of R72 in the default instance, but for OPC_TX_STATE2. -/
def takenOpcodes : List Byte :=
  defaultConfigWithoutTxState2.opcodes ++
    [defaultConfigWithoutTxState2.ctcssEncOnCode, defaultConfigWithoutTxState2.ctcssOffCode]

theorem not_mem_takenOpcodes (h : b ∈ spareOpcodes) : b ∉ takenOpcodes := by
  have hspare := (List.mem_filter.mp h).2
  simpa [takenOpcodes, defaultConfigWithoutTxState2, defaultConfig, Config.opcodes] using hspare

/-- R72 leaves OPC_TX_STATE2 a choice: 0x04 is a byte that no other parameter of the default instance has. -/
theorem spareOpcodes_length_pos : 0 < spareOpcodes.length :=
  List.length_pos_of_mem (a := 0x04)
    (List.mem_filter.mpr ⟨List.mem_map.mpr ⟨4, List.mem_range.mpr (by decide), rfl⟩, by decide⟩)

/-- The free byte is an entry of the list at an index below its length. -/
theorem freeTxState2Opcode_mem : freeTxState2Opcode ∈ spareOpcodes := by
  rw [freeTxState2Opcode, List.getD_eq_getElem _ _ (Nat.mod_lt _ spareOpcodes_length_pos)]
  exact List.getElem_mem _

/-- An instance without OPC_TX_STATE2 stays well formed when it is given a byte that none of R72's other bytes is. -/
theorem wellFormed_withTxState2 (hc : c.WellFormed) (hnone : c.opcTxState2 = none)
    (hb : b ∉ c.opcodes ++ [c.ctcssEncOnCode, c.ctcssOffCode]) :
    Config.WellFormed { c with opcTxState2 := some b } := by
  simp only [Config.WellFormed, Config.wf, Bool.and_eq_true, decide_eq_true_eq] at hc ⊢
  obtain ⟨hopc, hdir⟩ := hc
  refine ⟨?_, hdir⟩
  have hlast : Config.opcodes { c with opcTxState2 := some b } = c.opcodes ++ [b] := by
    simp [Config.opcodes, hnone]
  rw [hlast, List.append_assoc, List.singleton_append, List.nodup_middle]
  exact List.nodup_cons.mpr ⟨hb, hopc⟩

theorem defaultConfig_wellFormed : defaultConfig.WellFormed := by
  have hfixed : defaultConfigWithoutTxState2.WellFormed := by decide
  exact wellFormed_withTxState2 hfixed rfl (not_mem_takenOpcodes freeTxState2Opcode_mem)

/-! ## The state after reset (R231, R41) -/

theorem reset_idle : State.reset.Idle := ⟨rfl, rfl, rfl, rfl⟩

/-- Settles O40: the block is idle with `done` low, in a well-formed instance. -/
theorem resetMeetsInvariant : Obligations.ResetMeetsInvariant :=
  .of_idle defaultConfig_wellFormed reset_idle nofun

/-! ## The ports around a reset (R230, R234) -/

theorem clockEdge_reset (hr : p.rst = true) : clockEdge p s = .next (resetBlock s) := by
  simp [clockEdge, hr]

theorem portOut_quiet_of_rst (hr : p.rst = true) :
    (portOut p s).cmdReady = false ∧ (portOut p s).outValid = false ∧ (portOut p s).done = false := by
  simp [portOut, hr]

theorem portOut_ready_of_not_busy (hr : p.rst = false) (hb : s.busy = false) :
    (portOut p s).cmdReady = true ∧ (portOut p s).outValid = false := by
  simp [portOut, hr, hb]

/-- Settles O48: the edge takes the block to `resetBlock`, which is not busy. -/
theorem resetEdgeClearsEmitter : Obligations.ResetEdgeClearsEmitter := by
  intro p p' s hr hr'
  obtain ⟨hready, hvalid, hdone⟩ := portOut_quiet_of_rst (s := s) hr
  refine ⟨hready, hvalid, hdone, resetBlock s, clockEdge_reset hr, rfl, rfl, rfl, rfl, rfl, rfl, rfl, rfl, ?_⟩
  exact portOut_ready_of_not_busy hr' (resetBlock_busy s)

/-- Settles O49: the state after reset is not busy and has `done` low, so its ports are those of a ready block. -/
theorem resetState : Obligations.ResetState := by
  refine ⟨rfl, rfl, rfl, rfl, rfl, fun p hr => ?_⟩
  obtain ⟨hready, hvalid⟩ := portOut_ready_of_not_busy (s := State.reset) hr rfl
  exact ⟨hready, hvalid, Bool.and_false _, rfl⟩

end Sys2Proof.Machine
end
